-- ==== Sys2Proof/Word.lean ====
section
/-! DEFINITION. The words of the ND416: bytes, the 16-bit and 32-bit fields, and the names the manual gives to
numbers of those widths. -/

namespace Sys2Proof

/-- One byte of a command, a response or a parcel. -/
abbrev Byte := BitVec 8

/-- A 16-bit field: a count, a run token, a frame offset, a notice detail. -/
abbrev Word16 := BitVec 16

/-- A 32-bit field: the unit number. -/
abbrev Word32 := BitVec 32

/-- The number of a parcel within one generation of a stream (spec/00, Terms). -/
abbrev Seq := BitVec 16

/-- A mark number (R97). -/
abbrev MarkNo := BitVec 16

/-- A generation of a stream (R2, R10). -/
abbrev Gen := BitVec 8

/-- One 16-bit sample. -/
abbrev Sample := BitVec 16

/-- The address of a station on the line as the origin field of a parcel carries it (R154): 6 bits. -/
abbrev Addr := BitVec 6

/-- A stream number 0..15 (R10). -/
abbrev StreamNo := Fin 16

/-- A subscription handle 0..31 (R45). -/
abbrev SubHandle := Fin 32

end Sys2Proof
end

