-- ==== Sys2Proof/Machine/Serial.lean ====
section
/-! DEFINITION. Serial comparison of sequences, mark numbers and generations (R1, R2), saturating counts, and the
byte order of multi-byte fields (spec/11: most significant byte first). -/

namespace Sys2Proof.Machine

/-- R1: the distance from `b` to `a`, 0..65535. -/
def dist (b a : BitVec 16) : Nat := (a - b).toNat

/-- R1: the signed distance from `b` to `a`, -32768..32767. -/
def sdist (b a : BitVec 16) : Int :=
  if dist b a < 32768 then (dist b a : Int) else (dist b a : Int) - 65536

/-- R1: `a` is later than `b`. -/
def later (a b : BitVec 16) : Bool := decide (1 ≤ dist b a ∧ dist b a ≤ 32767)

/-- R1: `a` is earlier than `b`: different, and not later. -/
def earlier (a b : BitVec 16) : Bool := decide (a ≠ b) && !later a b

/-- R2: generation `g` is later than `h`. -/
def genLater (g h : Gen) : Bool := decide (1 ≤ (g - h).toNat ∧ (g - h).toNat ≤ 127)

/-- R1: `s` lies in the run of sequences from `f` to `l`, which is empty when `l` is earlier than `f`. -/
def inRun (f l s : Seq) : Bool := !earlier l f && decide (dist f s ≤ dist f l)

/-- A count that stops at 65535 (R11, R45). -/
def satAdd (x : Word16) (n : Nat) : Word16 := BitVec.ofNat 16 (min 65535 (x.toNat + n))

/-- A count that rises by one and stops at 65535. -/
def satInc (x : Word16) : Word16 := satAdd x 1

/-- A two-byte field, most significant byte first (spec/11). -/
def be16 (w : Word16) : List Byte := [w.extractLsb' 8 8, w.extractLsb' 0 8]

/-- A four-byte field, most significant byte first (spec/11). -/
def be32 (w : Word32) : List Byte :=
  [w.extractLsb' 24 8, w.extractLsb' 16 8, w.extractLsb' 8 8, w.extractLsb' 0 8]

/-- The field that two bytes carry, the first being the more significant. -/
def word16 (hi lo : Byte) : Word16 := hi ++ lo

/-- The field that four bytes carry, the first being the most significant. -/
def word32 (b3 b2 b1 b0 : Byte) : Word32 := ((b3 ++ b2 : BitVec 16) ++ b1 : BitVec 24) ++ b0

/-- A number as one byte. -/
def byteOf (n : Nat) : Byte := BitVec.ofNat 8 n

/-- A number as a 16-bit field. -/
def word16Of (n : Nat) : Word16 := BitVec.ofNat 16 n

/-- A flag as bit `i` of a byte. -/
def flagBit (i : Nat) (f : Bool) : Byte := if f then byteOf (2 ^ i) else 0

/-- The channels set in a channel mask, ascending (R3). -/
def channels (mask : Byte) : List Nat := (List.range 8).filter fun n => mask.getLsbD n

/-- The number of channels set in a channel mask (R3, R12). -/
def channelCount (mask : Byte) : Nat := (channels mask).length

/-- The 6-bit address of an argument or field byte. -/
def addrOf (b : Byte) : Addr := b.setWidth 6

/-- The stream number of an argument byte, absent outside 0..15. -/
def streamOf (b : Byte) : Option StreamNo := if h : b.toNat < 16 then some ⟨b.toNat, h⟩ else none

/-- The subscription handle of an argument byte, absent outside 0..31. -/
def handleOf (b : Byte) : Option SubHandle := if h : b.toNat < 32 then some ⟨b.toNat, h⟩ else none

/-- The sixteen stream numbers in ascending order. -/
def allStreams : List StreamNo := List.finRange 16

/-- The thirty-two subscription handles in ascending order. -/
def allHandles : List SubHandle := List.finRange 32

end Sys2Proof.Machine
end

