-- ==== Sys2Proof/Config.lean ====
section
/-! DEFINITION. The free values: what the manual leaves to the part and fixes nowhere. -/

namespace Sys2Proof.Config

/-- R143: when one FAILED outcome both exhausts its entry and raises the streak to 16, the exhaustion and the
streak "may be taken in either order". `exhaustionFirst n` is the order of the `n`-th such outcome: true when the
owner is told first. It has no body: a claim holds for both orders (log entry 5, DESIGN CHOICE, safe). -/
opaque exhaustionFirst : Nat → Bool

end Sys2Proof.Config
end

