-- ==== Sys2Proof/Syntax.lean ====
section
/-! DEFINITION. The steps of the block as syntax: one constructor of `Instr` for each row of
spec/opcode_table.json, with the row's operands, and the parcels and the configuration image those operands are
made of. -/

namespace Sys2Proof

/-- The configuration image of CONFIGURE, each field as its bytes carry it (R168, section 11.3). -/
structure Image where
  /-- Offset 0. -/
  address    : Byte
  /-- Offset 1, four bytes. -/
  unit       : Word32
  /-- Offset 5, two bytes. -/
  token      : Word16
  /-- Offset 7. -/
  rateCode   : Byte
  /-- Offset 8, units of 10 ms. -/
  presence   : Byte
  /-- Offset 9, units of 100 µs. -/
  askBase    : Byte
  /-- Offset 10, units of 10 µs. -/
  stagger    : Byte
  /-- Offset 11, units of 1 ms. -/
  answerWait : Byte
  /-- Offset 12. -/
  attempts   : Byte
  /-- Offset 13: 0 none, 1 rising, 2 falling. -/
  pinEdge    : Byte
  /-- Offset 14, two bytes, units of 1 ms. -/
  interval   : Word16
  deriving DecidableEq, Repr

/-- The first two bytes of a parcel: class and rank, then the origin (R154, R179). -/
structure Header where
  cls    : BitVec 2
  rank   : BitVec 6
  origin : Addr
  deriving DecidableEq, Repr

/-- One advertisement of a HELLO (R114, R179): the oldest retained and the last sealed sequence, or none when
the none-sealed bit is set. -/
structure Advert where
  stream : StreamNo
  gen    : Gen
  range  : Option (Seq × Seq)
  deriving DecidableEq, Repr

/-- The body of a HELLO (R125, R179). -/
structure HelloBody where
  unit      : Word32
  token     : Word16
  mark      : MarkNo
  interval  : Byte
  departing : Bool
  adverts   : List Advert
  deriving DecidableEq, Repr

/-- The flags and the body of a DATA parcel (R3, R179). -/
structure DataBody where
  resent   : Bool
  short    : Bool
  hostData : Bool
  stream   : StreamNo
  gen      : Gen
  seq      : Seq
  mark     : MarkNo
  offset   : Word16
  mask     : Byte
  frames   : Byte
  samples  : List Sample
  deriving DecidableEq, Repr

/-- The body of an ASK (R77, R179). -/
structure AskBody where
  target : Byte
  stream : StreamNo
  gen    : Gen
  first  : Seq
  count  : Byte
  deriving DecidableEq, Repr

/-- The body of a GONE (R93, R179). -/
structure GoneBody where
  stream : StreamNo
  gen    : Gen
  first  : Seq
  last   : Seq
  deriving DecidableEq, Repr

/-- What a parcel carries after its header, by kind (R179). -/
inductive Body
  | hello (b : HelloBody)
  | mark  (m : MarkNo)
  | data  (b : DataBody)
  | ask   (b : AskBody)
  | gone  (b : GoneBody)
  deriving DecidableEq, Repr

/-- One parcel of the exchange line. -/
structure Parcel where
  header : Header
  body   : Body
  deriving DecidableEq, Repr

/-- The direction of a level change on MARKIN (R101). -/
inductive Edge
  | rising
  | falling
  deriving DecidableEq, Repr

/-- What a RESET_END ends: the supply has become stable, or RESETN has risen (R169, R183). -/
inductive ResetHold
  | supply
  | pin
  deriving DecidableEq, Repr

/-- The steps of the block, one constructor for each row of spec/opcode_table.json. The operands of a host
command are its argument bytes (R180); those of a reception are the parcel received. -/
inductive Instr
  | configure (image : Image)
  | restart
  | status
  | join
  | leave
  | mark
  | nextNotice
  | openPub (stream source size start mask k : Byte) (d : Word16)
  | closePub (stream : Byte)
  | put (stream count : Byte) (samples : List Sample)
  | pubStatus (stream : Byte)
  | openSub (origin stream size policy start : Byte)
  | closeSub (handle : Byte)
  | take (handle : Byte)
  | read (slot first count : Byte)
  | release (slot : Byte)
  | resume (handle : Byte)
  | subStatus (handle : Byte)
  | roster (address : Byte)
  | unknownCode (code : Byte)
  | transactionStart
  | transactionCut
  | powerUp
  | resetnLow
  | resetEnd (hold : ResetHold)
  | frameStart
  | frameArrival (bits : BitVec 128)
  | markinEdge (edge : Edge)
  | askDelayExpiry (handle : SubHandle)
  | answerWaitExpiry (handle : SubHandle)
  | intervalTimerExpiry
  | presenceTimerExpiry
  | silenceTimerSilent (address : Addr)
  | silenceTimerGone (address : Addr)
  | listenSpanExpiry
  | parcelStart
  | outcomeSent
  | outcomeLost
  | outcomeFailed
  | helloAccepted (header : Header) (hello : HelloBody)
  | markAccepted (header : Header) (number : MarkNo)
  | dataAccepted (header : Header) (data : DataBody)
  | askAccepted (header : Header) (ask : AskBody)
  | goneAccepted (header : Header) (gone : GoneBody)
  | brokenParcel
  | discardedParcel (bytes : List Byte)
  | lineIdle
  | supplyDrop
  | lastResponseByte
  deriving DecidableEq, Repr

end Sys2Proof
end

