-- ==== Sys2Proof/Machine/State.lean ====
section
/-! DEFINITION. The state of the ND416 as plain data: every register, record, queue, buffer and timer the spec
gives its ten blocks, the queue of waiting steps, and the state after reset. INVENTORY.md lists each piece with its
rule. -/

namespace Sys2Proof.Machine

open Sys2Proof

/-! ### Why a step could stop -/

/-- The block never stops with a fault: every refusal the spec describes is a status byte (R167), and every bad
parcel is discarded (R155, R160). No constructor, so no step can raise one. -/
inductive Fault
  deriving DecidableEq, Repr

/-- The reasons a step could be refused. -/
inductive Refusal
  /-- Raised only by an arm of `exec` whose step has no meaning yet; no arm is left so. Safe. -/
  | notModelled (mnemonic : String)
  deriving DecidableEq, Repr

/-! ### Timers -/

/-- A timer: stopped, or running with its full period in microseconds. How much of the period has passed is not
kept: the expiry is a step of its own (log entry 2). -/
inductive Timer
  | stopped
  | running (micros : Nat)
  deriving DecidableEq, Repr

/-! ### Parcel records and the slot store (spec/01) -/

/-- A parcel record (R3). -/
structure Record where
  origin   : Addr
  stream   : StreamNo
  gen      : Gen
  seq      : Seq
  mark     : MarkNo
  offset   : Word16
  mask     : Byte
  frames   : Byte
  resent   : Bool
  short    : Bool
  hostData : Bool
  lost     : Bool
  samples  : List Sample
  deriving DecidableEq, Repr

/-! ### Publications (spec/02, spec/03) -/

/-- The state of a retention position, with the record it holds (R18). -/
inductive PosState
  | empty
  | queued (r : Record)
  | sent (r : Record)
  | resend (r : Record)
  deriving DecidableEq, Repr

/-- One position of a retention ring: the handle of its slot and its state (R5, R18). -/
structure RingPos where
  slot  : Nat
  state : PosState
  deriving DecidableEq, Repr

/-- R11: where a publication stands. A stream number without a record is NONE. -/
inductive PubState
  | armed
  | running
  | closing
  deriving DecidableEq, Repr

/-- R11: where the samples of a publication come from. -/
inductive Source
  | capture
  | host
  deriving DecidableEq, Repr

/-- R11: how a publication was opened. -/
inductive PubStart
  | immediate
  | onMark
  deriving DecidableEq, Repr

/-- R37: the builder of a capture publication. `stamps` are the first stamps, mark number and frame offset,
absent while no frame is collected. -/
structure Builder where
  phase     : Nat
  collected : Nat
  samples   : List Sample
  stamps    : Option (MarkNo × Word16)
  deriving DecidableEq, Repr

/-- R11: the last sealed sequence L and the head position, absent together until the first seal. -/
structure Head where
  last : Seq
  pos  : Nat
  deriving DecidableEq, Repr

/-- A publication record (R11). The retention size R is the length of the ring, and the retained count is
computed from it. -/
structure Pub where
  state         : PubState
  source        : Source
  start         : PubStart
  mask          : Byte
  k             : Nat
  d             : Nat
  gen           : Gen
  head          : Option Head
  ring          : List RingPos
  sealedCount   : Word16
  resendCount   : Word16
  overrunFrames : Word16
  backlogCount  : Word16
  builder       : Option Builder
  deriving DecidableEq, Repr

/-- A pending GONE range (R10, R90). -/
structure GoneRange where
  gen   : Gen
  first : Seq
  last  : Seq
  deriving DecidableEq, Repr

/-- What the publication engine keeps for one stream number (R10). -/
structure StreamRec where
  counter : Gen
  gone    : Option GoneRange
  pub     : Option Pub
  deriving DecidableEq, Repr

/-! ### Subscriptions (spec/04, spec/05) -/

/-- The state of a window slot, with the record it holds (R50). -/
inductive SlotState
  | free
  | held (r : Record)
  | ready (r : Record)
  | lost (r : Record)
  | taken (r : Record)
  deriving DecidableEq, Repr

/-- One position of a receive window: the handle of its slot and its state (R5, R50). -/
structure WinSlot where
  slot  : Nat
  state : SlotState
  deriving DecidableEq, Repr

/-- R45: how a hole that is given up is resolved. -/
inductive GapPolicy
  | fill
  | skip
  | stall
  deriving DecidableEq, Repr

/-- R45: where a subscription without a generation starts. -/
inductive SubStart
  | live
  | history
  deriving DecidableEq, Repr

/-- R45: the states of a subscription. -/
inductive SubState
  | waiting
  | running
  | stalled
  | orphaned
  deriving DecidableEq, Repr

/-- R73: the states of a repair machine. -/
inductive RepairState
  | idle
  | delay
  | asking
  | answer
  | halted
  | parked
  deriving DecidableEq, Repr

/-- R74: the one timer of a repair machine, in its role, with the full period in microseconds. -/
inductive RepairTimer
  | stopped
  | askDelay (micros : Nat)
  | answerWait (micros : Nat)
  deriving DecidableEq, Repr

/-- A repair machine (R73). -/
structure Repair where
  state    : RepairState
  attempts : Nat
  timer    : RepairTimer
  deriving DecidableEq, Repr

/-- R45: the generation G and the next sequence N, present together or absent together. -/
structure Point where
  gen  : Gen
  next : Seq
  deriving DecidableEq, Repr

/-- A subscription record (R45). The window size S is the length of `slots`. -/
structure Sub where
  origin    : Addr
  stream    : StreamNo
  slots     : List WinSlot
  policy    : GapPolicy
  start     : SubStart
  state     : SubState
  point     : Option Point
  p         : Nat
  b         : Nat
  h         : Int
  repair    : Repair
  delivered : Word16
  lost      : Word16
  discarded : Word16
  deriving DecidableEq, Repr

/-! ### Marks (spec/06) -/

/-- R97: how the latest adoption came about. -/
inductive MarkSource
  | own
  | peer
  | join
  deriving DecidableEq, Repr

/-- The last-mark record (R97). -/
structure LastMark where
  number : MarkNo
  source : MarkSource
  origin : Addr
  span   : Word16
  deriving DecidableEq, Repr

/-! ### Roster (spec/07) -/

/-- R114: how the roster judges an address; SELF is the own entry. -/
inductive PeerState
  | unknown
  | present
  | silent
  | gone
  | self
  deriving DecidableEq, Repr

/-- R114: the identifiers of a peer's latest HELLO. -/
structure Identity where
  unit  : Word32
  token : Word16
  deriving DecidableEq, Repr

/-- A roster entry (R114). `timerOn` says whether the silence timer runs. -/
structure PeerEntry where
  state    : PeerState
  identity : Option Identity
  interval : Option Byte
  mark     : Option MarkNo
  adverts  : List Advert
  timerOn  : Bool
  deriving DecidableEq, Repr

/-! ### Offers (spec/08) -/

/-- R130: the three sorts of HELLO. -/
inductive HelloSort
  | join
  | presence
  | departure
  deriving DecidableEq, Repr

/-- The kind, the sort and the reference of an offer entry (R130, R131). -/
inductive OfferItem
  | mark
  | ask (handle : SubHandle)
  | gone (stream : StreamNo)
  | fresh (stream : StreamNo) (pos : Nat)
  | resend (stream : StreamNo) (pos : Nat)
  | hello (sort : HelloSort)
  deriving DecidableEq, Repr

/-- An entry of the offer list (R130). `flight` is the in-flight mark, with the parcel whose content was fixed at
the start (R135). Its admission number is its place in the list and its class follows from its kind. -/
structure Offer where
  item     : OfferItem
  failures : Nat
  flight   : Option Parcel
  deriving DecidableEq, Repr

/-! ### Line (spec/09) -/

/-- R145: why a station is in MUTE. -/
inductive MuteCause
  | conflict
  | lineFault
  deriving DecidableEq, Repr

/-- The line state (R145). The mute cause is other than none exactly in MUTE, so MUTE carries it. -/
inductive LineState
  | unconfigured
  | offline
  | listening
  | active
  | departing
  | mute (cause : MuteCause)
  deriving DecidableEq, Repr

/-- R155, R159: the receiving side within a parcel: `run` bits equal to `prev` have just been read, `data` holds the
data bits so far from byte 0 on, stuff bits removed, and `tail` how many bits of the end field are still to be read,
once it has begun. -/
structure Rx where
  prev : Bool
  run  : Nat
  data : List Bool
  tail : Option Nat
  deriving DecidableEq, Repr

/-- What the line interface keeps from one bit time to the next. `recessive`: while the line is not idle, how many
consecutive recessive bits it has just read (R153). `driven`: how many bits of the own parcel in flight are on the line
already (R157). `rx`: the parcel being assembled bit by bit (R159). `left`: the line has entered OFFLINE since the
latest start of an own parcel (R149, R158). -/
structure LineBits where
  recessive : Nat
  driven    : Nat
  rx        : Option Rx
  left      : Bool
  deriving DecidableEq, Repr

/-! ### Host port (spec/10) -/

/-- R162: what the port keeps from one edge of SCK to the next: the bits of the command byte being collected, the
command bytes complete so far, the number of response bits presented, and the level last put on SDO. -/
structure Spi where
  bits  : List Bool
  bytes : List Byte
  out   : Nat
  level : Bool
  deriving DecidableEq, Repr

/-- The model's own: what can happen at the wires of the part below the rows of the table: an edge of SCS, an edge of
SCK with the level of SDI, a rising edge of FCLK with the levels of FSYNC and FDAT, and one bit time of the exchange
line with the level read at LRX, true for recessive (log entry 2). -/
inductive Wire
  | scsFall
  | scsRise
  | sckRise (sdi : Bool)
  | sckFall
  | fclkRise (fsync fdat : Bool)
  | bitTime (lrx : Bool)
  deriving DecidableEq, Repr

/-- R169: the reason for the latest reset. -/
inductive StartCause
  | power
  | pin
  | command
  deriving DecidableEq, Repr

/-- The transaction state of the port (R162). RESPONDING carries the response composed at the taking: the status
byte, then the data (R164). -/
inductive Txn
  | idle
  | collecting
  | responding (bytes : List Byte)
  | done
  deriving DecidableEq, Repr

/-- The eighteen kinds of notice (section 10.5). -/
inductive NoticeKind
  | streamReady
  | streamLoss
  | streamStalled
  | streamResync
  | streamOrphaned
  | pubOverrun
  | pubClosed
  | markAdopted
  | markGap
  | markStale
  | markFailed
  | peerJoined
  | peerSilent
  | peerGone
  | peerRestarted
  | lineState
  | addressConflict
  | noticeOverflow
  deriving DecidableEq, Repr

/-- The object of a notice, whose type the kind fixes (R173). -/
inductive NoticeObject
  | none
  | sub (handle : SubHandle)
  | stream (stream : StreamNo)
  | address (address : Addr)
  deriving DecidableEq, Repr

/-- An entry of the notice queue (R173). -/
structure Notice where
  kind   : NoticeKind
  object : NoticeObject
  count  : Nat
  detail : Word16
  deriving DecidableEq, Repr

/-! ### The state -/

/-- The state of the part. -/
structure State where
  /-- R168: the stored image; the configured flag is its presence. -/
  config          : Option Image
  /-- R169. -/
  startCause      : StartCause
  /-- R169: while a reset is in progress, the kind of the one that began first. -/
  firstReset      : Option ResetHold
  /-- R169, R183: the supply is not yet stable. -/
  supplyHold      : Bool
  /-- R169: RESETN is low. -/
  pinHold         : Bool
  /-- R162: the level of SCS; true while it is low. -/
  scsLow          : Bool
  /-- R162. -/
  txn             : Txn
  /-- R162: the bits of the transaction. -/
  spi             : Spi
  /-- R173: oldest first. -/
  notices         : List Notice
  /-- R5: the free list, ascending. -/
  freeSlots       : List Nat
  /-- R10: the sixteen stream numbers. -/
  streams         : Vector StreamRec 16
  /-- R35: F. -/
  frameOffset     : Word16
  /-- R33: a frame is being shifted in. -/
  frameInProgress : Bool
  /-- R33, R34: the bits of it sampled so far, the first one first. -/
  frameBits       : List Bool
  /-- R33, R183: the level of FSYNC as last read at a rising edge of FCLK; true for high. -/
  fsyncHigh       : Bool
  /-- R45: the thirty-two handles. -/
  subs            : Vector (Option Sub) 32
  /-- R97: M. -/
  markNo          : MarkNo
  /-- R97: P. -/
  markPending     : Bool
  /-- R97. -/
  lastMark        : Option LastMark
  /-- R102. -/
  intervalTimer   : Timer
  /-- R114: the entry of address a stands at place a - 1. -/
  roster          : Vector PeerEntry 62
  /-- R123. -/
  presenceTimer   : Timer
  /-- R130: in the order of admission. -/
  offers          : List Offer
  /-- R145. -/
  line            : LineState
  /-- R143. -/
  streak          : Nat
  /-- R148. -/
  listenTimer     : Timer
  /-- R153: ten consecutive recessive bits have been read. -/
  lineIdle        : Bool
  /-- R156, R159: a parcel is being assembled: its start bit was read on an idle line, or the own parcel was LOST or
  FAILED and the receiving side goes on with what the line carries. -/
  assembling      : Bool
  /-- R153, R157 to R159: the bits of the line. -/
  bits            : LineBits
  /-- The model's own: how many free orders (`Config.exhaustionFirst`) have been drawn (log entry 5). -/
  freeDraws       : Nat
  /-- The model's own: the steps that wait, oldest first (log entry 2). -/
  pending         : List Instr
  /-- The model's own: what happens at the wires once no step waits, oldest first (log entry 2). -/
  wires           : List Wire
  deriving DecidableEq, Repr

/-- R115: a roster entry after reset. -/
def PeerEntry.unknown : PeerEntry :=
  ⟨.unknown, none, none, none, [], false⟩

/-- R10: what a stream number holds after reset. -/
def StreamRec.reset : StreamRec := ⟨0, none, none⟩

/-- R162, R170: the port holds no bits after reset. -/
def Spi.reset : Spi := ⟨[], [], 0, false⟩

/-- R158, R170: the line interface holds no bits after reset. -/
def LineBits.reset : LineBits := ⟨0, 0, none, false⟩

/-- The part right after a power-up reset has ended (R170, and R9, R10, R36, R46, R98, R115, R144, R145 for the
blocks). The start cause POWER and the pin levels are log entry 4, and
the level of FSYNC log entry 23. -/
def State.reset : State where
  config          := none
  startCause      := .power
  firstReset      := none
  supplyHold      := false
  pinHold         := false
  scsLow          := false
  txn             := .idle
  spi             := Spi.reset
  notices         := []
  freeSlots       := List.range 256
  streams         := Vector.replicate 16 StreamRec.reset
  frameOffset     := 0
  frameInProgress := false
  frameBits       := []
  fsyncHigh       := false
  subs            := Vector.replicate 32 none
  markNo          := 0
  markPending     := false
  lastMark        := none
  intervalTimer   := .stopped
  roster          := Vector.replicate 62 PeerEntry.unknown
  presenceTimer   := .stopped
  offers          := []
  line            := .unconfigured
  streak          := 0
  listenTimer     := .stopped
  lineIdle        := false
  assembling      := false
  bits            := LineBits.reset
  freeDraws       := 0
  pending         := []
  wires           := []

end Sys2Proof.Machine
end

