-- ==== Sys2Proof/Machine/Operands.lean ====
section
/-! DEFINITION. The operand forms of the host commands and the codes of section 11.2 and 11.5: which byte stands
for which source, mode, policy, state and notice, and the ranges of the configuration image (R168, R180, R182). -/

namespace Sys2Proof.Machine

/-! ### Argument codes (R180) -/

/-- R180: 0 CAPTURE, 1 HOST. -/
def sourceOf (b : Byte) : Option Source :=
  if b = 0 then some .capture else if b = 1 then some .host else none

/-- R180: 0 IMMEDIATE, 1 ON_MARK. -/
def pubStartOf (b : Byte) : Option PubStart :=
  if b = 0 then some .immediate else if b = 1 then some .onMark else none

/-- R180: 0 FILL, 1 SKIP, 2 STALL. -/
def policyOf (b : Byte) : Option GapPolicy :=
  if b = 0 then some .fill else if b = 1 then some .skip else if b = 2 then some .stall else none

/-- R180: 0 LIVE, 1 HISTORY. -/
def subStartOf (b : Byte) : Option SubStart :=
  if b = 0 then some .live else if b = 1 then some .history else none

/-- R47, R127: an argument byte that names an address 1..62. -/
def isAddress (b : Byte) : Bool := decide (1 ≤ b.toNat ∧ b.toNat ≤ 62)

/-! ### State codes (section 11.2) -/

/-- Code of a source. -/
def Source.code : Source → Byte
  | .capture => 0
  | .host => 1

/-- Code of a publication start mode. -/
def PubStart.code : PubStart → Byte
  | .immediate => 0
  | .onMark => 1

/-- Code of a gap policy. -/
def GapPolicy.code : GapPolicy → Byte
  | .fill => 0
  | .skip => 1
  | .stall => 2

/-- Code of a subscription start mode. -/
def SubStart.code : SubStart → Byte
  | .live => 0
  | .history => 1

/-- Code of a line state. -/
def LineState.code : LineState → Byte
  | .unconfigured => 0
  | .offline => 1
  | .listening => 2
  | .active => 3
  | .departing => 4
  | .mute _ => 5

/-- Code of the mute cause of a line state, 0 outside MUTE (R145). -/
def LineState.causeCode : LineState → Byte
  | .mute .conflict => 1
  | .mute .lineFault => 2
  | _ => 0

/-- Code of a start cause. -/
def StartCause.code : StartCause → Byte
  | .power => 1
  | .pin => 2
  | .command => 3

/-- Code of a publication state; NONE is 0. -/
def PubState.code : PubState → Byte
  | .armed => 1
  | .running => 2
  | .closing => 3

/-- Code of a subscription state. -/
def SubState.code : SubState → Byte
  | .waiting => 0
  | .running => 1
  | .stalled => 2
  | .orphaned => 3

/-- Code of a repair machine state. -/
def RepairState.code : RepairState → Byte
  | .idle => 0
  | .delay => 1
  | .asking => 2
  | .answer => 3
  | .halted => 4
  | .parked => 5

/-- Code of a roster entry state. -/
def PeerState.code : PeerState → Byte
  | .unknown => 0
  | .present => 1
  | .silent => 2
  | .gone => 3
  | .self => 4

/-- Code of a last-mark source; none is 0. -/
def MarkSource.code : MarkSource → Byte
  | .own => 1
  | .peer => 2
  | .join => 3

/-- Kind code of a notice (R182). -/
def NoticeKind.code : NoticeKind → Byte
  | .streamReady => 0x01
  | .streamLoss => 0x02
  | .streamStalled => 0x03
  | .streamResync => 0x04
  | .streamOrphaned => 0x05
  | .pubOverrun => 0x10
  | .pubClosed => 0x11
  | .markAdopted => 0x20
  | .markGap => 0x21
  | .markStale => 0x22
  | .markFailed => 0x23
  | .peerJoined => 0x30
  | .peerSilent => 0x31
  | .peerGone => 0x32
  | .peerRestarted => 0x33
  | .lineState => 0x40
  | .addressConflict => 0x41
  | .noticeOverflow => 0x7F

/-- The object byte of a notice record, 0 for none (R182). -/
def NoticeObject.byte : NoticeObject → Byte
  | .none => 0
  | .sub h => byteOf h.val
  | .stream n => byteOf n.val
  | .address a => a.setWidth 8

end Sys2Proof.Machine

namespace Sys2Proof

/-- R168: every field of the image lies in its range. -/
def Image.inRange (c : Image) : Bool :=
  Machine.isAddress c.address && decide (c.rateCode.toNat ≤ 3) && decide (1 ≤ c.presence.toNat)
    && decide (1 ≤ c.askBase.toNat) && decide (1 ≤ c.answerWait.toNat)
    && decide (1 ≤ c.attempts.toNat ∧ c.attempts.toNat ≤ 7) && decide (c.pinEdge.toNat ≤ 2)
    && decide (c.interval.toNat ≤ 60000)

/-- Kind code of a parcel (R179). -/
def Body.kindCode : Body → Byte
  | .hello _ => 1
  | .mark _ => 2
  | .data _ => 3
  | .ask _ => 4
  | .gone _ => 5

/-! ### Configured periods -/

/-- R74: the ask delay, in microseconds. -/
def Image.askDelayMicros (c : Image) : Nat :=
  c.askBase.toNat * 100 + c.address.toNat * (c.stagger.toNat * 10)

/-- R74: the answer wait, in microseconds. -/
def Image.answerWaitMicros (c : Image) : Nat := c.answerWait.toNat * 1000

/-- R123: the presence period, in microseconds. -/
def Image.presenceMicros (c : Image) : Nat := c.presence.toNat * 10000

/-- R148: the listen span, in microseconds. -/
def Image.listenSpanMicros (c : Image) : Nat := 3 * c.presenceMicros

/-- R102: the mark interval timer as it is started or restarted: it never runs with the mark interval 0. -/
def Image.intervalStart (c : Image) : Machine.Timer :=
  if c.interval = 0 then .stopped else .running (c.interval.toNat * 1000)

/-- R145: the bit time, in microseconds. -/
def Image.bitTimeMicros (c : Image) : Nat :=
  if c.rateCode = 0 then 8 else if c.rateCode = 1 then 4 else if c.rateCode = 2 then 2 else 1

/-- R101: an edge in the configured direction. -/
def Image.edgeMatches (c : Image) (e : Edge) : Bool :=
  match e with
  | .rising => decide (c.pinEdge = 1)
  | .falling => decide (c.pinEdge = 2)

end Sys2Proof
end

