-- ==== Sys2Proof/Machine/Ops.lean ====
section
/-! DEFINITION. The shared operations over the state: posting a notice (R174, R175), lending and returning slots
(R6, R7), the offer list (R130 to R133), and the accessors of streams, subscriptions and roster entries. -/

namespace Sys2Proof.Machine

open Sys2Proof

/-! ### Notices -/

/-- R173: the entry is of kind `k` and object `o`. -/
def Notice.isOf (n : Notice) (k : NoticeKind) (o : NoticeObject) : Bool :=
  decide (n.kind = k ∧ n.object = o)

/-- R174, R175: one more event on an entry; its count stops at 255 and its detail is the latest. -/
def Notice.bump (n : Notice) (d : Word16) : Notice := { n with count := min 255 (n.count + 1), detail := d }

/-- R174: the last entry of the queue is NOTICE_OVERFLOW. -/
def overflowInForce (q : List Notice) : Bool :=
  match q.getLast? with
  | some n => decide (n.kind = .noticeOverflow)
  | none => false

/-- R174, R175: a posted notice joins the queue: merge, overflow in force, append, queue at its limit. -/
def postNotice (q : List Notice) (k : NoticeKind) (o : NoticeObject) (d : Word16) : List Notice :=
  if q.any fun n => n.isOf k o then
    q.map fun n => if n.isOf k o then n.bump d else n
  else if overflowInForce q then
    q.map fun n => if n.isOf .noticeOverflow .none then n.bump (k.code.setWidth 16) else n
  else if q.length ≤ 30 then q ++ [⟨k, o, 1, d⟩]
  else q ++ [⟨.noticeOverflow, .none, 1, k.code.setWidth 16⟩]

/-- A block posts a notice (R173). -/
def State.post (s : State) (k : NoticeKind) (o : NoticeObject) (d : Word16) : State :=
  { s with notices := postNotice s.notices k o d }

/-- R177: ATTN is driven low. -/
def State.attnLow (s : State) : Bool := !s.notices.isEmpty

/-! ### Slots -/

/-- R7: a returned handle goes to its place in ascending order. -/
def insertSlot (x : Nat) : List Nat → List Nat
  | [] => [x]
  | y :: ys => if x ≤ y then x :: y :: ys else y :: insertSlot x ys

/-- R7: a ring or window is returned whole. -/
def returnSlots (handles free : List Nat) : List Nat := handles.foldl (fun f x => insertSlot x f) free

/-- R5: the free count. -/
def State.freeCount (s : State) : Nat := s.freeSlots.length

/-! ### Streams and publications -/

/-- What the publication engine keeps for a stream number (R10). -/
def State.stream (s : State) (n : StreamNo) : StreamRec := s.streams[n]

/-- Replaces what is kept for a stream number. -/
def State.setStream (s : State) (n : StreamNo) (r : StreamRec) : State :=
  { s with streams := s.streams.set n r }

/-- The publication record of a stream number, if there is one (R11). -/
def State.pub (s : State) (n : StreamNo) : Option Pub := (s.stream n).pub

/-- Replaces the publication record of a stream number. -/
def State.setPub (s : State) (n : StreamNo) (p : Option Pub) : State :=
  s.setStream n { s.stream n with pub := p }

/-- Replaces the pending GONE range of a stream number (R10). -/
def State.setGone (s : State) (n : StreamNo) (g : Option GoneRange) : State :=
  s.setStream n { s.stream n with gone := g }

/-- Changes the publication record of a stream number where there is one. -/
def State.modPub (s : State) (n : StreamNo) (f : Pub → Pub) : State :=
  match s.pub n with
  | some p => s.setPub n (some (f p))
  | none => s

/-- The record a retention position holds; none in EMPTY (R18). -/
def PosState.record : PosState → Option Record
  | .empty => none
  | .queued r => some r
  | .sent r => some r
  | .resend r => some r

/-- R18: the position holds a record. -/
def PosState.retained (x : PosState) : Bool := x.record.isSome

/-- A position in QUEUED or RESEND becomes SENT; EMPTY and SENT stay (R15, R16, R23 to R25). -/
def PosState.toSent : PosState → PosState
  | .queued r => .sent r
  | .resend r => .sent r
  | x => x

/-- R18: QUEUED or RESEND, the states in which an offer references the position. -/
def PosState.offered : PosState → Bool
  | .queued _ => true
  | .resend _ => true
  | _ => false

/-- R11: the retention size R. -/
def Pub.size (p : Pub) : Nat := p.ring.length

/-- R18: the retained count c. -/
def Pub.retained (p : Pub) : Nat := p.ring.countP fun x => x.state.retained

/-- R11: the oldest retained sequence O, absent when nothing is retained. -/
def Pub.oldest (p : Pub) : Option Seq :=
  match p.head with
  | some t => if 1 ≤ p.retained then some (t.last - word16Of (p.retained - 1)) else none
  | none => none

/-- The handles of the ring, by position (R6). -/
def Pub.handles (p : Pub) : List Nat := p.ring.map RingPos.slot

/-- Changes the state of one ring position. -/
def Pub.setPos (p : Pub) (i : Nat) (f : PosState → PosState) : Pub :=
  { p with ring := p.ring.modify i fun x => { x with state := f x.state } }

/-! ### Subscriptions -/

/-- The subscription open on a handle, if any (R45). -/
def State.sub (s : State) (h : SubHandle) : Option Sub := s.subs[h]

/-- Replaces the record of a handle. -/
def State.setSub (s : State) (h : SubHandle) (w : Option Sub) : State :=
  { s with subs := s.subs.set h w }

/-- Changes the record of a handle where one is open. -/
def State.modSub (s : State) (h : SubHandle) (f : Sub → Sub) : State :=
  match s.sub h with
  | some w => s.setSub h (some (f w))
  | none => s

/-- The open subscription of an (origin, stream), if there is one; R47 allows at most one. -/
def State.subOf (s : State) (a : Addr) (n : StreamNo) : Option SubHandle :=
  allHandles.find? fun h =>
    match s.sub h with
    | some w => decide (w.origin = a ∧ w.stream = n)
    | none => false

/-- The handles of the open subscriptions of an origin, ascending (R129). -/
def State.subsOf (s : State) (a : Addr) : List SubHandle :=
  allHandles.filter fun h =>
    match s.sub h with
    | some w => decide (w.origin = a)
    | none => false

/-! ### Configuration and roster -/

/-- R168: the configured flag. -/
def State.configured (s : State) : Bool := s.config.isSome

/-- R169: a reset is in progress. -/
def State.inReset (s : State) : Bool := s.supplyHold || s.pinHold

/-- The own address, fixed by CONFIGURE. -/
def State.ownAddr (s : State) : Addr :=
  match s.config with
  | some c => addrOf c.address
  | none => 0

/-- The place of an address 1..62 in the roster (R114). -/
def rosterPlace (a : Addr) : Option (Fin 62) :=
  if h : 1 ≤ a.toNat ∧ a.toNat ≤ 62 then some ⟨a.toNat - 1, by omega⟩ else none

/-- The roster entry of an address. Addresses 0 and 63 have none; it reads as UNKNOWN. -/
def State.peer (s : State) (a : Addr) : PeerEntry :=
  match rosterPlace a with
  | some i => s.roster[i]
  | none => PeerEntry.unknown

/-- Replaces the roster entry of an address 1..62. -/
def State.setPeer (s : State) (a : Addr) (e : PeerEntry) : State :=
  match rosterPlace a with
  | some i => { s with roster := s.roster.set i e }
  | none => s

/-- R114: the effective interval of a peer entry, in units of 10 ms. -/
def State.effectiveInterval (s : State) (e : PeerEntry) : Byte :=
  match e.interval, s.config with
  | some i, _ => i
  | none, some c => c.presence
  | none, none => 0

/-! ### The offer list -/

/-- R131: the class of an entry, by its kind. -/
def OfferItem.cls : OfferItem → Nat
  | .mark => 0
  | .ask _ => 1
  | .gone _ => 1
  | .resend _ _ => 1
  | .fresh _ _ => 2
  | .hello _ => 3

/-- R131: two entries stand for the same resource. A retention position is one resource for both DATA kinds,
and the three sorts of HELLO share one place. -/
def OfferItem.sameResource : OfferItem → OfferItem → Bool
  | .mark, .mark => true
  | .ask h, .ask h' => decide (h = h')
  | .gone n, .gone n' => decide (n = n')
  | .fresh n i, .fresh n' i' => decide (n = n' ∧ i = i')
  | .fresh n i, .resend n' i' => decide (n = n' ∧ i = i')
  | .resend n i, .fresh n' i' => decide (n = n' ∧ i = i')
  | .resend n i, .resend n' i' => decide (n = n' ∧ i = i')
  | .hello _, .hello _ => true
  | _, _ => false

/-- The entry is a DATA offer of a position of the stream number. -/
def OfferItem.isDataOf (n : StreamNo) : OfferItem → Bool
  | .fresh m _ => decide (m = n)
  | .resend m _ => decide (m = n)
  | _ => false

/-- The entry is a DATA offer. -/
def OfferItem.isData : OfferItem → Bool
  | .fresh _ _ => true
  | .resend _ _ => true
  | _ => false

/-- R130: the entry's parcel is on the line. -/
def Offer.inFlight (o : Offer) : Bool := o.flight.isSome

/-- The list holds an entry of the item's resource. -/
def State.hasOffer (s : State) (i : OfferItem) : Bool := s.offers.any fun o => o.item.sameResource i

/-- The list holds an entry of the item's resource that is in flight. -/
def State.offerInFlight (s : State) (i : OfferItem) : Bool :=
  s.offers.any fun o => o.item.sameResource i && o.inFlight

/-- R132: an owner puts an entry last in the admission order, with failures 0 and not in flight. R131: never a
second entry of one resource. -/
def State.addOffer (s : State) (i : OfferItem) : State :=
  if s.hasOffer i then s else { s with offers := s.offers ++ [⟨i, 0, none⟩] }

/-- R133: withdraws every entry that is not in flight and satisfies `f`; the list closes up. -/
def State.withdrawWhere (s : State) (f : OfferItem → Bool) : State :=
  { s with offers := s.offers.filter fun o => o.inFlight || !f o.item }

/-- R133: withdraws the entry of a resource unless it is in flight. -/
def State.withdraw (s : State) (i : OfferItem) : State := s.withdrawWhere fun j => j.sameResource i

/-- Whether a HELLO of any sort is in the list (R124). -/
def State.hasHello (s : State) : Bool := s.hasOffer (.hello .presence)

/-- R124: a presence HELLO is admitted while the line is ACTIVE and no HELLO offer is in the list. -/
def State.announce (s : State) : State :=
  if s.line = .active ∧ s.hasHello = false then s.addOffer (.hello .presence) else s

/-- The entry in flight, if there is one (R130: at most one). -/
def State.flying (s : State) : Option Offer := s.offers.find? Offer.inFlight

/-- R48, R49: a handle is in use while a subscription is open on it, and after its close until the outcome of an
ASK that was in flight. -/
def State.handleInUse (s : State) (h : SubHandle) : Bool :=
  (s.sub h).isSome || s.hasOffer (.ask h)

/-! ### The line -/

/-- Section 9.1: the line state receives parcels. -/
def LineState.receives : LineState → Bool
  | .listening => true
  | .active => true
  | .departing => true
  | .mute _ => true
  | _ => false

/-- R158: the receiving side may assemble the own parcel, or go on with it after LOST or FAILED: the state receives, and
the line has not entered OFFLINE since the parcel started. -/
def State.mayAssemble (s : State) : Bool := s.line.receives && !s.bits.left

/-- R153: a parcel whose end field was carried cleanly has been read: seven of the ten recessive bits have passed. -/
def LineBits.ended (b : LineBits) : LineBits := { b with recessive := 7, rx := none }

/-- R153, R159: the bits as the own parcel leaves them at SENT. A station that has been in OFFLINE since the start
counts from its JOIN, and one that reads nothing counts nothing. -/
def State.bitsSent (s : State) : LineBits :=
  if s.mayAssemble then s.bits.ended else { s.bits with recessive := min 7 s.bits.recessive, rx := none }

/-- R153, R159: a parcel on the line now can reach the parcel filter: the state receives, no parcel of the
station is on the line (R136), and the start bit was read on an idle line or the assembly goes on after LOST or
FAILED. -/
def State.canReceive (s : State) : Bool :=
  s.line.receives && s.flying.isNone && (s.lineIdle || s.assembling)

end Sys2Proof.Machine
end

