-- ==== Sys2Proof/Machine/LineCode.lean ====
section
/-! DEFINITION. The line code of spec/09: the CRC (R154), stuffing and framing errors (R155), the outcome of an attempt
from the bits driven and the bits read (R137, R157), and the wired line. A bit is true when the line is recessive (bit
value 1). The rows of the table give outcomes and receptions as whole steps; these functions say which bits make which,
and a bit time (Machine/Wires.lean) runs on them (log entry 16). -/

namespace Sys2Proof.Machine

open Sys2Proof

/-- R154: a byte as bits, most significant first. -/
def byteBits (b : Byte) : List Bool := [b.getLsbD 7, b.getLsbD 6, b.getLsbD 5, b.getLsbD 4, b.getLsbD 3, b.getLsbD 2,
  b.getLsbD 1, b.getLsbD 0]

/-- Bytes as bits in the order sent. -/
def bytesBits (bs : List Byte) : List Bool := bs.flatMap byteBits

/-- R154: one bit into the CRC register. -/
def crcBit (r : Word16) (d : Bool) : Word16 :=
  if r.msb != d then (r <<< 1) ^^^ 0x1021 else r <<< 1

/-- R154: the CRC over bytes, initial value 0xFFFF, no final inversion. -/
def crc16 (bs : List Byte) : Word16 := (bytesBits bs).foldl crcBit 0xFFFF

/-- R155: inserts stuff bits; `run` bits equal to `prev` have just been sent. -/
def stuffFrom : Bool → Nat → List Bool → List Bool
  | _, _, [] => []
  | prev, run, x :: xs =>
    if x = prev then
      if run = 4 then x :: (!x) :: stuffFrom (!x) 1 xs else x :: stuffFrom x (run + 1) xs
    else x :: stuffFrom x 1 xs

/-- R155: the region from the start bit to the CRC, stuffed. The start bit is the first of the run. -/
def stuff (bits : List Bool) : List Bool := false :: stuffFrom false 1 bits

/-- R155: removes stuff bits as a receiver does; none is a framing error (six equal bits). `run` bits equal to
`prev` have just been read. -/
def unstuffFrom : Bool → Nat → List Bool → Option (List Bool)
  | _, _, [] => some []
  | prev, run, x :: xs =>
    if run = 5 then
      if x = prev then none else unstuffFrom x 1 xs
    else if x = prev then (unstuffFrom x (run + 1) xs).map (x :: ·)
    else (unstuffFrom x 1 xs).map (x :: ·)

/-- R155: what a receiver takes from the stuffed region, the start bit first. -/
def unstuff : List Bool → Option (List Bool)
  | false :: bits => unstuffFrom false 1 bits
  | _ => none

/-- R154: the end field. -/
def endField : List Bool := List.replicate 7 true

/-- Eight bits, most significant first, as a byte. -/
def bitsByte (bits : List Bool) : Byte := bits.foldl (fun b x => (b <<< 1) ||| (if x then 1 else 0)) 0

/-- Bits as bytes, most significant first; a last group of fewer than eight is left out. -/
def bitsBytes : List Bool → List Byte
  | a :: b :: c :: d :: e :: f :: g :: h :: rest => bitsByte [a, b, c, d, e, f, g, h] :: bitsBytes rest
  | _ => []

/-- R155, R159: what the receiving side makes of the bits after a start bit. -/
inductive Assembly
  /-- A framing error: the parcel is discarded. -/
  | broken
  /-- Received whole: byte 0 to the CRC. -/
  | received (bytes : List Byte)
  /-- The bits end before the parcel does. -/
  | unfinished
  deriving DecidableEq, Repr

/-- R155: the largest body length a valid parcel carries. -/
def maxBody : Nat := 107

/-- R155: the body length that byte 3 gives. -/
def bodyLength (data : List Bool) : Nat := (bitsByte ((data.drop 24).take 8)).toNat

/-- R154, R155: the data bits from byte 0 to the last bit of the CRC have all been read. -/
def Rx.full (r : Rx) : Bool := decide (32 ≤ r.data.length ∧ 8 * (4 + bodyLength r.data + 2) ≤ r.data.length)

/-- R159: the receiving side after the start bit of a parcel. -/
def Rx.start : Rx := ⟨false, 1, [], none⟩

/-- R155: one bit of the end field, of which `n` are still to be read. A dominant one breaks the parcel. -/
def Rx.endBit (r : Rx) (n : Nat) (x : Bool) : Rx × Assembly :=
  if x then
    if n ≤ 1 then (r, .received (bitsBytes r.data)) else ({ r with tail := some (n - 1) }, .unfinished)
  else (r, .broken)

/-- R155: one bit of the stuffed region: after five equal bits a sixth breaks the parcel and any other is a stuff bit; a
data bit that completes a body length above 107 breaks it too. -/
def Rx.dataBit (r : Rx) (x : Bool) : Rx × Assembly :=
  if r.run = 5 then
    if x = r.prev then (r, .broken)
    else ({ r with prev := x, run := 1, tail := if r.full then some 7 else none }, .unfinished)
  else if r.data.length = 31 ∧ maxBody < bodyLength (r.data ++ [x]) then (r, .broken)
  else (⟨x, if x = r.prev then r.run + 1 else 1, r.data ++ [x], none⟩, .unfinished)

/-- R155, R159: the receiving side reads one more bit. The end field begins at the bit after the CRC, or after the stuff
bit that follows the CRC. -/
def Rx.step (r : Rx) (x : Bool) : Rx × Assembly :=
  match r.tail with
  | some n => r.endBit n x
  | none => if r.full = true ∧ r.run ≠ 5 then r.endBit 7 x else r.dataBit x

/-- R159: the receiving side reads bit after bit until the parcel ends. -/
def Rx.read (r : Rx) : List Bool → Assembly
  | [] => .unfinished
  | x :: xs =>
    match r.step x with
    | (v, .unfinished) => v.read xs
    | (_, a) => a

/-- R159: the receiving side, from a start bit read on an idle line. -/
def assemble : List Bool → Assembly
  | false :: bits => Rx.start.read bits
  | _ => .broken

/-- R137, R157: the outcomes of an attempt. -/
inductive Verdict
  | sent
  | lost
  | failed
  deriving DecidableEq, Repr

/-- R137, R157: the first mismatch decides. `contention` is the number of bits after the start bit, stuff bits
among them, that carry byte 0 and byte 1. -/
def verdictFrom : Nat → List Bool → List Bool → Verdict
  | contention, d :: ds, r :: rs =>
    if d = r then verdictFrom (contention - 1) ds rs
    else if d = true ∧ 0 < contention then .lost
    else .failed
  | _, _, _ => .sent

/-- R137, R157: the verdict on a parcel from the bits driven and the bits read, the start bit first. -/
def verdict (contention : Nat) : List Bool → List Bool → Verdict
  | d :: ds, r :: rs => if d = r then verdictFrom contention ds rs else .failed
  | _, _ => .sent

/-- R137: how many bits after the start bit carry byte 0 and byte 1, stuff bits among them. Whether a stuff bit that
follows a run completed by the last bit of byte 1 is one of them the manual does not say: here it is, so that such a bit
driven recessive and read dominant is LOST (DESIGN CHOICE, log entry 20). -/
def contentionBits (bytes01 : List Byte) : Nat := (stuffFrom false 1 (bytesBits bytes01)).length

/-- Section 9: the line is dominant (false) where any station drives dominant. -/
def wired (a b : List Bool) : List Bool := List.zipWith (· && ·) a b

/-- R157: the line as two stations that start together make it: at the first bit in which they differ the one that
drives recessive stops, and the other goes on alone. -/
def contend : List Bool → List Bool → List Bool
  | x :: xs, y :: ys => if x = y then x :: contend xs ys else false :: if x then ys else xs
  | xs, [] => xs
  | [], ys => ys

end Sys2Proof.Machine
end

