-- ==== Sys2Proof/Machine/Filter.lean ====
section
/-! DEFINITION. Parcels as bytes: the layouts of R179 and the parcel filter of R160. `Parcel.bytes` composes,
`parseParcel` reads, `Parcel.passes` are the content checks, and `Filter.accept` is the whole filter over the bytes
from byte 0 to the CRC. -/

namespace Sys2Proof

/-! ### Composing (R179) -/

/-- R179: bytes 0 and 1. -/
def Header.bytes (h : Header) : List Byte := [h.cls ++ h.rank, h.origin ++ 0#2]

/-- R179: the stream byte, bits 7..4 zero. -/
def streamByte (n : StreamNo) : Byte := BitVec.ofNat 8 n.val

/-- R179: the six bytes of an advertisement; with the none-sealed bit set the sequence fields are 0. -/
def Advert.bytes (a : Advert) : List Byte :=
  match a.range with
  | some (o, l) => [streamByte a.stream, a.gen] ++ Machine.be16 o ++ Machine.be16 l
  | none => [streamByte a.stream ||| 0x80, a.gen, 0, 0, 0, 0]

/-- R179: the HELLO body. -/
def HelloBody.bytes (b : HelloBody) : List Byte :=
  Machine.be32 b.unit ++ Machine.be16 b.token ++ Machine.be16 b.mark
    ++ [b.interval, Machine.flagBit 0 b.departing, Machine.byteOf b.adverts.length]
    ++ b.adverts.flatMap Advert.bytes

/-- R179: the DATA body. -/
def DataBody.bytes (b : DataBody) : List Byte :=
  [streamByte b.stream, b.gen] ++ Machine.be16 b.seq ++ Machine.be16 b.mark ++ Machine.be16 b.offset
    ++ [b.mask, b.frames] ++ b.samples.flatMap Machine.be16

/-- R179: the ASK body. -/
def AskBody.bytes (b : AskBody) : List Byte :=
  [b.target, streamByte b.stream, b.gen] ++ Machine.be16 b.first ++ [b.count]

/-- R179: the GONE body. -/
def GoneBody.bytes (b : GoneBody) : List Byte :=
  [streamByte b.stream, b.gen] ++ Machine.be16 b.first ++ Machine.be16 b.last

/-- R179: the body of a parcel. -/
def Body.bytes : Body → List Byte
  | .hello b => b.bytes
  | .mark m => Machine.be16 m
  | .data b => b.bytes
  | .ask b => b.bytes
  | .gone b => b.bytes

/-- R179: the flags of byte 2; only DATA has any. -/
def Body.flags : Body → Byte
  | .data b => Machine.flagBit 3 b.resent ||| Machine.flagBit 2 b.short ||| Machine.flagBit 1 b.hostData
  | _ => 0

/-- R179: byte 0 to the last byte of the body. -/
def Parcel.bytes (p : Parcel) : List Byte :=
  p.header.bytes ++ [(p.body.kindCode <<< 4) ||| p.body.flags, Machine.byteOf p.body.bytes.length] ++ p.body.bytes

/-- R154: byte 0 to the CRC. -/
def Parcel.withCrc (p : Parcel) : List Byte := p.bytes ++ Machine.be16 (Machine.crc16 p.bytes)

/-- R154, R155: the bits a station drives for a parcel, from the start bit to the end field. -/
def Parcel.lineBits (p : Parcel) : List Bool :=
  Machine.stuff (Machine.bytesBits p.withCrc) ++ Machine.endField

/-! ### Reading (R179) -/

/-- R160: a stream byte whose upper four bits are 0. -/
def parseStream (b : Byte) : Option StreamNo := Machine.streamOf b

/-- R179: one advertisement; bits 6..4 of its first byte are checked, and with the none-sealed bit set its
sequence fields are not. -/
def parseAdvert (b0 b1 b2 b3 b4 b5 : Byte) : Option Advert :=
  match parseStream (b0 &&& 0x7F) with
  | some n =>
    some ⟨n, b1, if b0.getLsbD 7 then none else some (Machine.word16 b2 b3, Machine.word16 b4 b5)⟩
  | none => none

/-- R179: the advertisements of a HELLO body, to its last byte. -/
def parseAdverts : List Byte → Option (List Advert)
  | [] => some []
  | b0 :: b1 :: b2 :: b3 :: b4 :: b5 :: bs =>
    match parseAdvert b0 b1 b2 b3 b4 b5, parseAdverts bs with
    | some a, some l => some (a :: l)
    | _, _ => none
  | _ => none

/-- R160, R179: a HELLO body; its length is 11 + 6n with n 0..16, and only DEPARTING may be set in its flags. -/
def parseHello : List Byte → Option HelloBody
  | u3 :: u2 :: u1 :: u0 :: t1 :: t0 :: m1 :: m0 :: iv :: fl :: n :: rest =>
    if fl.toNat ≤ 1 ∧ n.toNat ≤ 16 ∧ rest.length = 6 * n.toNat then
      match parseAdverts rest with
      | some l =>
        some ⟨Machine.word32 u3 u2 u1 u0, Machine.word16 t1 t0, Machine.word16 m1 m0, iv, fl.getLsbD 0, l⟩
      | none => none
    else none
  | _ => none

/-- R179: samples of two bytes each, to the last byte. -/
def parseSamples : List Byte → Option (List Sample)
  | [] => some []
  | hi :: lo :: bs => (parseSamples bs).map (Machine.word16 hi lo :: ·)
  | _ => none

/-- R179: a DATA body with the flags of byte 2. -/
def parseData (flags : Byte) : List Byte → Option DataBody
  | st :: g :: q1 :: q0 :: m1 :: m0 :: o1 :: o0 :: mask :: fc :: rest =>
    match parseStream st, parseSamples rest with
    | some n, some l =>
      some ⟨flags.getLsbD 3, flags.getLsbD 2, flags.getLsbD 1, n, g, Machine.word16 q1 q0, Machine.word16 m1 m0,
        Machine.word16 o1 o0, mask, fc, l⟩
    | _, _ => none
  | _ => none

/-- R179: an ASK body. -/
def parseAsk : List Byte → Option AskBody
  | [t, st, g, f1, f0, c] => (parseStream st).map fun n => ⟨t, n, g, Machine.word16 f1 f0, c⟩
  | _ => none

/-- R179: a GONE body. -/
def parseGone : List Byte → Option GoneBody
  | [st, g, f1, f0, l1, l0] =>
    (parseStream st).map fun n => ⟨n, g, Machine.word16 f1 f0, Machine.word16 l1 l0⟩
  | _ => none

/-- R179: a MARK body. -/
def parseMark : List Byte → Option MarkNo
  | [m1, m0] => some (Machine.word16 m1 m0)
  | _ => none

/-- R160, R179: the body by the kind code and the flags of byte 2. Bit 0 is never a flag, and only DATA has the
other three. -/
def parseBody (b2 : Byte) (bs : List Byte) : Option Body :=
  let kind := b2.extractLsb' 4 4
  let flags := b2 &&& 0x0F
  if kind = 3 then
    if flags.getLsbD 0 then none else (parseData flags bs).map Body.data
  else if flags ≠ 0 then none
  else if kind = 1 then (parseHello bs).map Body.hello
  else if kind = 2 then (parseMark bs).map Body.mark
  else if kind = 4 then (parseAsk bs).map Body.ask
  else if kind = 5 then (parseGone bs).map Body.gone
  else none

/-- R179: byte 0 to the last byte of the body. Byte 3 is the body length, and the two low bits of byte 1 are 0. -/
def parseParcel : List Byte → Option Parcel
  | b0 :: b1 :: b2 :: b3 :: bs =>
    if b1.extractLsb' 0 2 = 0 ∧ b3.toNat = bs.length then
      (parseBody b2 bs).map fun body => ⟨⟨b0.extractLsb' 6 2, b0.extractLsb' 0 6, b1.extractLsb' 2 6⟩, body⟩
    else none
  | _ => none

/-! ### The content checks (R160) -/

/-- R160: the origin is neither 0 nor 63. -/
def Header.passes (h : Header) : Bool := decide (1 ≤ h.origin.toNat ∧ h.origin.toNat ≤ 62)

/-- R160: an advertisement that is not none-sealed spans at most 15. -/
def Advert.passes (a : Advert) : Bool :=
  match a.range with
  | some (o, l) => decide (Machine.dist o l ≤ 15)
  | none => true

/-- R3, R160: the record of a DATA body is consistent. -/
def DataBody.consistent (b : DataBody) : Bool :=
  if b.hostData then
    !b.short && decide (b.mask = 0 ∧ b.frames = 0 ∧ 1 ≤ b.samples.length ∧ b.samples.length ≤ 32)
  else
    decide (b.mask ≠ 0 ∧ 1 ≤ b.frames.toNat ∧ b.frames.toNat ≤ 32
      ∧ b.samples.length = Machine.channelCount b.mask * b.frames.toNat
      ∧ 1 ≤ b.samples.length ∧ b.samples.length ≤ 32)

/-- R160: the content checks of a body, by kind. -/
def Body.passes : Body → Bool
  | .hello b => decide (b.adverts.length ≤ 16) && b.adverts.all Advert.passes
  | .mark _ => true
  | .data b => b.consistent
  | .ask b => Machine.isAddress b.target && decide (1 ≤ b.count.toNat ∧ b.count.toNat ≤ 16)
  | .gone b => !Machine.earlier b.last b.first

/-- R160: every check of the filter on a parcel that has the layout of its kind. -/
def Parcel.passes (p : Parcel) : Bool := p.header.passes && p.body.passes

/-- R160: the parcel filter, over the bytes from byte 0 to the CRC. -/
def Filter.accept (bs : List Byte) : Option Parcel :=
  if bs.drop (bs.length - 2) = Machine.be16 (Machine.crc16 (bs.take (bs.length - 2))) then
    match parseParcel (bs.take (bs.length - 2)) with
    | some p => if p.passes then some p else none
    | none => none
  else none

end Sys2Proof
end

