-- ==== Sys2Proof/Machine/Window.lean ====
section
/-! DEFINITION. The receive window of one subscription (spec/04): its positions (R51), the delivery run (R54), the
steps that give up a hole (R62 to R64), placement (R53), TAKE and RELEASE on the window (R57, R59). Everything here
is a function of the subscription record alone. -/

namespace Sys2Proof.Machine

open Sys2Proof

/-! ### Positions -/

/-- R45: the window size S. -/
def Sub.size (w : Sub) : Nat := w.slots.length

/-- R51: the tail. -/
def Sub.tail (w : Sub) : Nat := (w.p + w.size - w.b) % w.size

/-- The state of the slot at a position. -/
def Sub.at (w : Sub) (i : Nat) : SlotState :=
  match w.slots[i]? with
  | some x => x.state
  | none => .free

/-- Replaces the state of the slot at a position. -/
def Sub.put (w : Sub) (i : Nat) (x : SlotState) : Sub :=
  { w with slots := w.slots.modify i fun y => { y with state := x } }

/-- The handles of the window, by position (R6). -/
def Sub.handles (w : Sub) : List Nat := w.slots.map WinSlot.slot

/-- The slot holds a received record not yet in order (R50). -/
def SlotState.isHeld : SlotState → Bool
  | .held _ => true
  | _ => false

/-- The slot is FREE (R50). -/
def SlotState.isFree : SlotState → Bool
  | .free => true
  | _ => false

/-- The slot is READY (R50). -/
def SlotState.isReady : SlotState → Bool
  | .ready _ => true
  | _ => false

/-- The slot is LOST (R50). -/
def SlotState.isLost : SlotState → Bool
  | .lost _ => true
  | _ => false

/-- The slot is READY or LOST: delivered and not yet taken (R56, R57). -/
def SlotState.isWaiting (x : SlotState) : Bool := x.isReady || x.isLost

/-- The slot is TAKEN (R50). -/
def SlotState.isTaken : SlotState → Bool
  | .taken _ => true
  | _ => false

/-- The record of a slot, if it holds one (R50). -/
def SlotState.record : SlotState → Option Record
  | .free => none
  | .held r => some r
  | .ready r => some r
  | .lost r => some r
  | .taken r => some r

/-- The number of slots in a state (R61). -/
def Sub.count (w : Sub) (f : SlotState → Bool) : Nat := w.slots.countP fun x => f x.state

/-- R56: the number of READY plus LOST slots. -/
def Sub.waiting (w : Sub) : Nat := w.count SlotState.isWaiting

/-- R51: a hole exists. -/
def Sub.hasHole (w : Sub) : Bool :=
  decide ((w.state = .running ∨ w.state = .stalled) ∧ 0 ≤ w.h)

/-- R60: every position is behind p. -/
def Sub.full (w : Sub) : Bool := decide (w.size ≤ w.b)

/-! ### Moving on -/

/-- h falls by one, not below -1 (R54, R62 to R64). -/
def lowerHorizon (h : Int) : Int := max (h - 1) (-1)

/-- N rises by one (R54). -/
def Point.succ (q : Point) : Point := { q with next := q.next + 1 }

/-- N, p and b rise by one and h falls by one (R54, R62, R63). -/
def Sub.advance (w : Sub) : Sub :=
  { w with point := w.point.map Point.succ, p := (w.p + 1) % w.size, b := w.b + 1, h := lowerHorizon w.h }

/-- R54: one turn of the delivery run, when the slot at p is HELD. -/
def Sub.deliverOne (w : Sub) : Option Sub :=
  match w.at w.p with
  | .held r => some { (w.put w.p (.ready r)).advance with delivered := satInc w.delivered }
  | _ => none

/-- R54: the delivery run, at most `fuel` turns. -/
def Sub.deliver : Nat → Sub → Sub
  | 0, w => w
  | fuel + 1, w =>
    match w.deliverOne with
    | some w' => w'.deliver fuel
    | none => w

/-- R54: the delivery run; it stops at the latest when b reaches S, so S turns are enough. -/
def Sub.deliveryRun (w : Sub) : Sub := w.deliver w.size

/-- R59: while b > 0 and the slot at the tail is FREE, b falls by one; at most `fuel` times. -/
def Sub.trim : Nat → Sub → Sub
  | 0, w => w
  | fuel + 1, w => if 0 < w.b ∧ (w.at w.tail).isFree then { w with b := w.b - 1 }.trim fuel else w

/-- R59: the tail moves over the FREE behind positions. -/
def Sub.trimTail (w : Sub) : Sub := w.trim w.b

/-! ### Giving up a hole -/

/-- R4: the LOST placeholder of a sequence. -/
def placeholder (a : Addr) (n : StreamNo) (q : Point) : Record :=
  ⟨a, n, q.gen, q.next, 0, 0, 0, 0, false, false, false, true, []⟩

/-- The lost count rises by one (R62 to R64). -/
def Sub.countLost (w : Sub) : Sub := { w with lost := satInc w.lost }

/-- R62: the FILL step on the window, before its delivery run. -/
def Sub.fillStep (w : Sub) (q : Point) : Sub :=
  (w.put w.p (.lost (placeholder w.origin w.stream q))).advance.countLost

/-- R63: the SKIP step on the window, before its delivery run. -/
def Sub.skipStep (w : Sub) : Sub := w.advance.trimTail.countLost

/-- R64: the step under FILL or SKIP with b = S. -/
def Sub.passStep (w : Sub) : Sub :=
  { w with point := w.point.map Point.succ, h := lowerHorizon w.h }.countLost

/-- R62 to R64: gives up the hole at N by FILL or SKIP, with the delivery run that follows while b < S. -/
def Sub.giveUp (w : Sub) (q : Point) (fill : Bool) : Sub :=
  if w.full then w.passStep
  else if fill then (w.fillStep q).deliveryRun
  else w.skipStep.deliveryRun

/-! ### Arrivals -/

/-- The discarded count rises (R52, R53, R55, R69). -/
def Sub.discard (w : Sub) (n : Nat) : Sub := { w with discarded := satAdd w.discarded n }

/-- R3, R53: the record written from a DATA parcel. -/
def recordOf (origin : Addr) (d : DataBody) : Record :=
  ⟨origin, d.stream, d.gen, d.seq, d.mark, d.offset, d.mask, d.frames, d.resent, d.short, d.hostData, false,
    d.samples⟩

/-- R53: where a parcel falls. -/
inductive Placement
  /-- Earlier than N: discarded as old. -/
  | old
  /-- Already HELD: discarded as a duplicate. -/
  | duplicate
  /-- Placed at distance `delta` from N. -/
  | placed (delta : Nat)
  /-- Beyond the ahead run: pushed back. -/
  | pushedBack (delta : Nat)
  deriving DecidableEq, Repr

/-- R53: the placement of sequence `x` when N is `n`. -/
def Sub.placement (w : Sub) (n x : Seq) : Placement :=
  if sdist n x < 0 then .old
  else if w.size - w.b ≤ dist n x then .pushedBack (dist n x)
  else if (w.at ((w.p + dist n x) % w.size)).isHeld then .duplicate
  else .placed (dist n x)

/-- h becomes the greater of h and a distance (R53, R67). -/
def Sub.raise (w : Sub) (delta : Nat) : Sub := { w with h := max w.h (delta : Int) }

/-- R53, R54: a parcel of generation G on the window, with the delivery run when it falls at N. -/
def Sub.place (w : Sub) (n : Seq) (r : Record) : Sub :=
  match w.placement n r.seq with
  | .old => w.discard 1
  | .duplicate => w.discard 1
  | .pushedBack delta => (w.discard 1).raise delta
  | .placed delta =>
    let v := (w.put ((w.p + delta) % w.size) (.held r)).raise delta
    if delta = 0 then v.deliveryRun else v

/-- A HELD slot becomes FREE; any other stays (R55). -/
def SlotState.dropHeld (x : SlotState) : SlotState := if x.isHeld then .free else x

/-- R55, R69: every HELD slot becomes FREE, and the discarded count rises by one for each. -/
def Sub.dropHeld (w : Sub) : Sub :=
  Sub.discard { w with slots := w.slots.map fun x => { x with state := x.state.dropHeld } }
    (w.count SlotState.isHeld)

/-- R55, R67: the window starts on generation `g` at sequence `n` with horizon `h`. -/
def Sub.startAt (w : Sub) (g : Gen) (n : Seq) (h : Int) : Sub :=
  { w with point := some ⟨g, n⟩, h := h, state := .running }

/-! ### The host's side -/

/-- R57: the first position from `i` on, over `n` positions, that is READY or LOST. -/
def Sub.findWaiting (w : Sub) : Nat → Nat → Option (Nat × Record)
  | 0, _ => none
  | n + 1, i =>
    match w.at (i % w.size) with
    | .ready r => some (i % w.size, r)
    | .lost r => some (i % w.size, r)
    | _ => w.findWaiting n (i + 1)

/-- R57: the oldest behind slot that is READY or LOST. -/
def Sub.oldestWaiting (w : Sub) : Option (Nat × Record) := w.findWaiting w.b w.tail

/-- The handle of the slot at a position. -/
def Sub.handleAt (w : Sub) (i : Nat) : Nat :=
  match w.slots[i]? with
  | some x => x.slot
  | none => 0

/-- R61: the handles of the TAKEN slots among `n` positions from `i` on, in order. -/
def Sub.takenFrom (w : Sub) : Nat → Nat → List Nat
  | 0, _ => []
  | n + 1, i =>
    if (w.at (i % w.size)).isTaken then w.handleAt (i % w.size) :: w.takenFrom n (i + 1)
    else w.takenFrom n (i + 1)

/-- R61: the handles of the TAKEN slots, from the tail towards p. -/
def Sub.takenHandles (w : Sub) : List Nat := w.takenFrom w.b w.tail

/-- The position of the TAKEN slot with a handle, if the window has one (R5). -/
def Sub.takenPos (w : Sub) (slot : Nat) : Option Nat :=
  w.slots.findIdx? fun x => x.slot == slot && x.state.isTaken

/-- R5: the subscription and position that own a slot handle given by the host. -/
def State.owned (s : State) (slot : Byte) : Option (SubHandle × Nat) :=
  allHandles.findSome? fun h =>
    match s.sub h with
    | some w => (w.takenPos slot.toNat).map fun i => (h, i)
    | none => none

/-- R59: the slot becomes FREE and the tail moves. -/
def Sub.releaseAt (w : Sub) (i : Nat) : Sub := (w.put i .free).trimTail

end Sys2Proof.Machine
end

