-- ==== Sys2Proof/Machine/Repair.lean ====
section
/-! DEFINITION. The repair machine of a subscription (spec/05, sections 5.1 to 5.4): what it does on each event it is
told (R72, R75, R80 to R83), at its timer expiries (R76, R79) and when it hears a peer's ASK (R84). -/

namespace Sys2Proof.Machine

open Sys2Proof

/-- R74: the ask-delay timer with its full period. -/
def State.askDelayTimer (s : State) : RepairTimer :=
  match s.config with
  | some c => .askDelay c.askDelayMicros
  | none => .stopped

/-- R74: the answer-wait timer with its full period. -/
def State.answerWaitTimer (s : State) : RepairTimer :=
  match s.config with
  | some c => .answerWait c.answerWaitMicros
  | none => .stopped

/-- R79: the configured ask attempts. -/
def State.askAttempts (s : State) : Nat :=
  match s.config with
  | some c => c.attempts.toNat
  | none => 0

/-- Replaces the repair machine of an open subscription. -/
def State.setRepair (s : State) (h : SubHandle) (r : Repair) : State :=
  s.modSub h fun w => { w with repair := r }

/-- The machine enters a state with a timer, keeping its attempts. -/
def State.moveRepair (s : State) (h : SubHandle) (st : RepairState) (t : RepairTimer) : State :=
  s.modSub h fun w => { w with repair := { w.repair with state := st, timer := t } }

/-- R80: the attempts count returns to 0. -/
def State.clearAttempts (s : State) (h : SubHandle) : State :=
  s.modSub h fun w => { w with repair := { w.repair with attempts := 0 } }

/-- R133: the machine's ASK offer is withdrawn unless it is in flight. -/
def State.withdrawAsk (s : State) (h : SubHandle) : State := s.withdraw (.ask h)

/-- R81, R82: DELAY with the timer started if a hole exists and the line is ACTIVE, PARKED if a hole exists and
the line is not ACTIVE, IDLE if no hole exists. -/
def State.repairByHole (s : State) (h : SubHandle) : State :=
  match s.sub h with
  | some w =>
    if w.hasHole then
      if s.line = .active then s.moveRepair h .delay s.askDelayTimer else s.moveRepair h .parked .stopped
    else s.moveRepair h .idle .stopped
  | none => s

/-- R75: the machine is told that a hole appeared. -/
def State.toldHole (s : State) (h : SubHandle) : State :=
  match s.sub h with
  | some w => if w.repair.state = .idle then s.repairByHole h else s
  | none => s

/-- R80: the machine is told that N advanced; whether a hole remains is read from the window. -/
def State.toldAdvanced (s : State) (h : SubHandle) : State :=
  match s.sub h with
  | some w =>
    let t := s.clearAttempts h
    if w.hasHole then
      if w.repair.state = .asking ∧ w.full = true ∧ s.offerInFlight (.ask h) = false then
        (t.withdrawAsk h).moveRepair h .delay s.askDelayTimer
      else t
    else
      match w.repair.state with
      | .delay => t.moveRepair h .idle .stopped
      | .answer => t.moveRepair h .idle .stopped
      | .asking => (t.withdrawAsk h).moveRepair h .idle .stopped
      | .parked => t.moveRepair h .idle .stopped
      | .idle => t
      | .halted => t
  | none => s

/-- R81: the machine is told that its subscription is STALLED. -/
def State.toldStalled (s : State) (h : SubHandle) : State :=
  (s.withdrawAsk h).setRepair h ⟨.halted, 0, .stopped⟩

/-- R81: the machine is told of the resumption. -/
def State.toldResumed (s : State) (h : SubHandle) : State :=
  ((s.withdrawAsk h).clearAttempts h).repairByHole h

/-- R82: the machine is told of a resync. -/
def State.toldResync (s : State) (h : SubHandle) : State :=
  ((s.withdrawAsk h).clearAttempts h).repairByHole h

/-- R82: the machine is told of a restart or that its subscription is orphaned. -/
def State.toldIdle (s : State) (h : SubHandle) : State :=
  (s.withdrawAsk h).setRepair h ⟨.idle, 0, .stopped⟩

/-- R83: the line leaves ACTIVE; one machine. -/
def State.parkRepair (s : State) (h : SubHandle) : State :=
  match s.sub h with
  | some w =>
    match w.repair.state with
    | .delay => s.moveRepair h .parked .stopped
    | .asking => (s.withdrawAsk h).moveRepair h .parked .stopped
    | .answer => s.moveRepair h .parked .stopped
    | .idle => s
    | .halted => s
    | .parked => s
  | none => s

/-- R83: the line enters ACTIVE; one machine. -/
def State.unparkRepair (s : State) (h : SubHandle) : State :=
  match s.sub h with
  | some w => if w.repair.state = .parked then (s.clearAttempts h).repairByHole h else s
  | none => s

/-- R83: every machine as the line leaves ACTIVE. -/
def State.parkRepairs (s : State) : State := allHandles.foldl State.parkRepair s

/-- R83: every machine as the line enters ACTIVE. -/
def State.unparkRepairs (s : State) : State := allHandles.foldl State.unparkRepair s

/-- R84: an ASK covers a subscription. -/
def Sub.coveredBy (w : Sub) (a : AskBody) : Bool :=
  match w.point with
  | some q =>
    decide (w.state = .running) && w.hasHole && decide (a.gen = q.gen)
      && decide (dist a.first q.next < a.count.toNat)
  | none => false

/-- R84: a peer's ASK acts on the machine of the subscription it is handed to. -/
def State.suppress (s : State) (h : SubHandle) (a : AskBody) : State :=
  match s.sub h with
  | some w =>
    if w.coveredBy a then
      match w.repair.state with
      | .delay => s.moveRepair h .delay s.askDelayTimer
      | .asking =>
        if s.offerInFlight (.ask h) then s
        else (s.withdrawAsk h).moveRepair h .answer s.answerWaitTimer
      | .answer => s.moveRepair h .answer s.answerWaitTimer
      | .idle => s
      | .halted => s
      | .parked => s
    else s
  | none => s

/-- R76: the ask-delay timer expires. A stopped timer does not (R74). -/
def State.askDelayExpires (s : State) (h : SubHandle) : State :=
  match s.sub h with
  | some w =>
    match w.repair.state, w.repair.timer with
    | .delay, .askDelay _ =>
      if w.hasHole = false then s.setRepair h ⟨.idle, 0, .stopped⟩
      else if w.full then s.moveRepair h .delay s.askDelayTimer
      else (s.moveRepair h .asking .stopped).addOffer (.ask h)
    | _, _ => s
  | none => s

/-- R77: the number of sequences an ASK names. -/
def Sub.askCount (w : Sub) : Nat := min 16 (min w.h.toNat (w.size - w.b - 1) + 1)

/-- R77: the content of the ASK, from the window as it stands. -/
def Sub.askBody (w : Sub) : Option AskBody :=
  match w.point with
  | some q =>
    if w.hasHole = true ∧ w.full = false then
      some ⟨w.origin.setWidth 8, w.stream, q.gen, q.next, byteOf w.askCount⟩
    else none
  | none => none

/-- R78: SENT or exhausted, in ASKING: one more attempt, and the answer wait. -/
def State.askDone (s : State) (h : SubHandle) : State :=
  match s.sub h with
  | some w =>
    if w.repair.state = .asking then
      s.setRepair h ⟨.answer, w.repair.attempts + 1, s.answerWaitTimer⟩
    else s
  | none => s

/-- R78: the machine still wants an ASK that an outcome leaves in the list. -/
def State.wantsAsk (s : State) (h : SubHandle) : Bool :=
  match s.sub h with
  | some w => decide (w.repair.state = .asking)
  | none => false

end Sys2Proof.Machine
end

