-- ==== Sys2Proof/Machine/Subscriptions.lean ====
section
/-! DEFINITION. The subscription engine (spec/04): the abandon step of the gap policies (R62 to R66), arriving DATA
(R52 to R55), the five signals of the roster (R67 to R71), an arriving GONE (R85), and the STREAM_READY notice that
ends each of these events (R56). -/

namespace Sys2Proof.Machine

open Sys2Proof

/-- R56: the number of READY plus LOST slots of a handle. -/
def State.waitingOf (s : State) (h : SubHandle) : Nat :=
  match s.sub h with
  | some w => w.waiting
  | none => 0

/-- R56: STREAM_READY at the end of an event that began with `before` READY plus LOST slots. -/
def State.endEvent (s : State) (h : SubHandle) (before : Nat) : State :=
  if before = 0 ∧ 0 < s.waitingOf h then
    s.post .streamReady (.sub h) (word16Of (s.waitingOf h))
  else s

/-- R56: runs one event of the subscription, then STREAM_READY if it is due. -/
def State.event (s : State) (h : SubHandle) (f : State → State) : State := (f s).endEvent h (s.waitingOf h)

/-! ### The abandon step -/

/-- The state a subscription takes when a delivery run has advanced N (R54): a stall is lifted. `moved` says that
the run advanced N. -/
def Sub.liftStall (w : Sub) (moved : Bool) : Sub :=
  if w.state = .stalled ∧ moved = true then { w with state := .running } else w

/-- R62 to R64: gives up the hole at N by FILL or SKIP, posts STREAM_LOSS and tells the machine. -/
def State.giveUp (s : State) (h : SubHandle) (fill : Bool) : State :=
  match s.sub h with
  | some w =>
    match w.point with
    | some q =>
      let v := w.giveUp q fill
      let moved := decide (v.point ≠ some q.succ)
      let t := (s.setSub h (some (v.liftStall moved))).post .streamLoss (.sub h) q.next
      let t := t.toldAdvanced h
      if w.state = .stalled ∧ moved = true then t.toldResumed h else t
    | none => s
  | none => s

/-- R65: the STALL step. -/
def State.stallStep (s : State) (h : SubHandle) : State :=
  match s.sub h with
  | some w =>
    match w.point with
    | some q =>
      if w.state = .running then
        ((s.setSub h (some { w with state := .stalled })).post .streamStalled (.sub h) q.next).toldStalled h
      else s
    | none => s
  | none => s

/-- The abandon step of the subscription's gap policy, applied to the hole at N (section 4.6). -/
def State.abandon (s : State) (h : SubHandle) : State :=
  match s.sub h with
  | some w =>
    match w.policy with
    | .fill => s.giveUp h true
    | .skip => s.giveUp h false
    | .stall => s.stallStep h
  | none => s

/-- An abandonment that repeats: while `go` holds of the subscription, one abandon step; under STALL it stops at
its first step (R65). `step` is how one abandon step is run. -/
def State.abandonWhile (s : State) (h : SubHandle) (go : Sub → Bool) (step : State → State) : Nat → State
  | 0 => s
  | fuel + 1 =>
    match s.sub h with
    | some w =>
      if go w then
        if w.policy = .stall then step s else (step s).abandonWhile h go step fuel
      else s
    | none => s

/-- R68, R70: a hole exists, N is not later than the window end, and b < S. -/
def Sub.withinWindowEnd (windowEnd : Seq) (w : Sub) : Bool :=
  match w.point with
  | some q => w.hasHole && !later q.next windowEnd && !w.full
  | none => false

/-- R68: the window end E = N + (S - b - 1). -/
def Sub.windowEnd (w : Sub) (q : Point) : Seq := q.next + word16Of (w.size - w.b) - 1

/-- R68, R70: gives up every hole inside the ahead run as it stands at the signal. -/
def State.abandonWindow (s : State) (h : SubHandle) : State :=
  match s.sub h with
  | some w =>
    match w.point with
    | some q => s.abandonWhile h (Sub.withinWindowEnd (w.windowEnd q)) (fun t => t.abandon h) (w.size + 1)
    | none => s
  | none => s

/-- R68, R70: h becomes -1. -/
def State.forgetHorizon (s : State) (h : SubHandle) : State := s.modSub h fun w => { w with h := -1 }

/-! ### Arriving DATA -/

/-- R53, R54: places a record of generation G and tells the machine what follows. -/
def State.placeRecord (s : State) (h : SubHandle) (r : Record) : State :=
  match s.sub h with
  | some w =>
    match w.point with
    | some q =>
      let v := w.place q.next r
      let moved := decide (v.point ≠ w.point)
      let t := s.setSub h (some (v.liftStall moved))
      let t := if moved then t.toldAdvanced h else t
      let t := if w.state = .stalled ∧ moved = true then t.toldResumed h else t
      if w.hasHole = false ∧ v.hasHole = true then t.toldHole h else t
    | none => s
  | none => s

/-- R55: HELD slots are dropped and the window starts on generation `g` at `n` with horizon `hz`; STREAM_RESYNC is
posted and the machine told. -/
def State.resync (s : State) (h : SubHandle) (g : Gen) (n : Seq) (hz : Int) : State :=
  ((s.modSub h fun w => w.dropHeld.startAt g n hz).post .streamResync (.sub h) (g.setWidth 16)).toldResync h

/-- R52: an arriving DATA parcel at its subscription, without the closing notice. -/
def State.dataAt (s : State) (h : SubHandle) (r : Record) : State :=
  match s.sub h with
  | some w =>
    match w.state, w.point with
    | .orphaned, _ => s.setSub h (some (w.discard 1))
    | .waiting, _ =>
      if w.start = .live then
        ((s.setSub h (some (w.startAt r.gen r.seq (-1)))).toldResync h).placeRecord h r
      else s.setSub h (some (w.discard 1))
    | _, some q =>
      if r.gen = q.gen then s.placeRecord h r
      else if genLater r.gen q.gen then (s.resync h r.gen r.seq (-1)).placeRecord h r
      else s.setSub h (some (w.discard 1))
    | _, none => s
  | none => s

/-- R52, R56: an arriving DATA parcel is one event of its subscription. -/
def State.dataArrives (s : State) (h : SubHandle) (r : Record) : State := s.event h fun t => t.dataAt h r

/-! ### Signals from the roster -/

/-- R67: N and h as an advertisement sets them, by the start mode. -/
def advertisedStart (st : SubStart) (range : Option (Seq × Seq)) : Seq × Int :=
  match range, st with
  | none, _ => (0, -1)
  | some (_, l), .live => (l + 1, -1)
  | some (o, l), .history => (o, (dist o l : Int))

/-- R67: the advertised signal. -/
def State.advertised (s : State) (h : SubHandle) (a : Advert) : State :=
  match s.sub h with
  | some w =>
    let (n, hz) := advertisedStart w.start a.range
    match w.state, w.point with
    | .orphaned, _ => s
    | .waiting, _ => (s.setSub h (some (w.startAt a.gen n hz))).toldResync h
    | _, some q =>
      if a.gen = q.gen then
        match a.range with
        | some (_, l) =>
          if earlier l q.next then s
          else
            let v := w.raise (dist q.next l)
            let t := s.setSub h (some v)
            if w.hasHole = false ∧ v.hasHole = true then t.toldHole h else t
        | none => s
      else if genLater a.gen q.gen then s.resync h a.gen n hz
      else s
    | _, none => s
  | none => s

/-- R68: the not-listed signal. -/
def State.notListed (s : State) (h : SubHandle) : State :=
  match s.sub h with
  | some w =>
    if w.state = .running ∨ w.state = .stalled then
      ((s.abandonWindow h).forgetHorizon h).toldAdvanced h
    else s
  | none => s

/-- R69: the restarted signal. -/
def State.restarted (s : State) (h : SubHandle) : State :=
  match s.sub h with
  | some w =>
    if w.state = .orphaned then s
    else
      (s.setSub h (some { w.dropHeld with point := none, h := -1, state := .waiting })).toldIdle h
  | none => s

/-- R70: what the gone signal does to the holes, by policy and state. -/
def State.goneHoles (s : State) (h : SubHandle) : State :=
  match s.sub h with
  | some w =>
    if w.state = .running then
      match w.policy, w.point with
      | .stall, some q => if w.hasHole then s.post .streamStalled (.sub h) q.next else s
      | .stall, none => s
      | _, _ => (s.abandonWindow h).forgetHorizon h
    else s
  | none => s

/-- R70: the gone signal. -/
def State.originGone (s : State) (h : SubHandle) : State :=
  match s.sub h with
  | some w =>
    if w.state = .orphaned then s
    else
      (((s.goneHoles h).modSub h fun v => { v with state := .orphaned }).toldIdle h).post .streamOrphaned (.sub h)
        (w.origin.setWidth 16)
  | none => s

/-- R71: the back signal. -/
def State.originBack (s : State) (h : SubHandle) : State :=
  match s.sub h with
  | some w =>
    if w.state = .orphaned then
      if w.point.isSome then (s.setSub h (some { w with state := .running })).toldResumed h
      else s.setSub h (some { w with state := .waiting })
    else s
  | none => s

/-- R129: a signal reaches the open subscriptions of an origin in ascending order of handle, each as one event of
its subscription (R56). -/
def State.signal (s : State) (a : Addr) (f : State → SubHandle → State) : State :=
  (s.subsOf a).foldl (fun t h => t.event h fun u => f u h) s

/-! ### An arriving GONE -/

/-- R85: a hole exists and N lies in the run from `f` to `l`. -/
def Sub.inGoneRun (f l : Seq) (w : Sub) : Bool :=
  match w.point with
  | some q => w.hasHole && inRun f l q.next
  | none => false

/-- R85: a GONE at its subscription. Each abandon step is an event for R56. -/
def State.goneArrives (s : State) (h : SubHandle) (g : GoneBody) : State :=
  match s.sub h with
  | some w =>
    match w.point with
    | some q =>
      if (w.state = .running ∨ w.state = .stalled) ∧ g.gen = q.gen then
        s.abandonWhile h (Sub.inGoneRun g.first g.last) (fun t => t.event h fun u => u.abandon h) (w.h + 1).toNat
      else s
    | none => s
  | none => s

/-! ### The answer-wait timer -/

/-- R79: the answer-wait timer expires. A stopped timer does not (R74). -/
def State.answerWaitExpires (s : State) (h : SubHandle) : State :=
  match s.sub h with
  | some w =>
    match w.repair.state, w.repair.timer with
    | .answer, .answerWait _ =>
      if w.hasHole = false then s.setRepair h ⟨.idle, 0, .stopped⟩
      else
        let t := s.moveRepair h .delay s.askDelayTimer
        if w.repair.attempts < s.askAttempts then t
        else t.event h fun u => u.abandon h
    | _, _ => s
  | none => s

end Sys2Proof.Machine
end

