-- ==== Sys2Proof/Machine/Publications.lean ====
section
/-! DEFINITION. The publication engine (spec/02) and the publisher's half of repair (spec/05, sections 5.6 and 5.7):
lending and returning a ring, the seal (R20 to R22), the effect of offer outcomes on positions (R17, R23 to R25), an
ASK at the publisher (R86 to R89), and the pending GONE range (R90 to R93). -/

namespace Sys2Proof.Machine

open Sys2Proof

/-! ### Sealing -/

/-- What a seal is asked for: the content of the record that the publication itself does not give (R21). -/
structure SealContent where
  mark     : MarkNo
  offset   : Word16
  frames   : Nat
  short    : Bool
  hostData : Bool
  samples  : List Sample
  deriving DecidableEq, Repr

/-- R20: the target position. -/
def Pub.target (p : Pub) : Nat :=
  match p.head with
  | some t => (t.pos + 1) % p.size
  | none => 0

/-- R20: the sequence the next seal gives. -/
def Pub.nextSeq (p : Pub) : Seq :=
  match p.head with
  | some t => t.last + 1
  | none => 0

/-- The state of a ring position (R18). -/
def Pub.posAt (p : Pub) (i : Nat) : PosState :=
  match p.ring[i]? with
  | some x => x.state
  | none => .empty

/-- R20: the next seal is a backlog overrun, because its target position still has an offer. -/
def Pub.backlogged (p : Pub) : Bool := (p.posAt p.target).offered

/-- R21: the record a seal writes. -/
def Pub.sealRecord (p : Pub) (own : Addr) (n : StreamNo) (c : SealContent) : Record :=
  ⟨own, n, p.gen, p.nextSeq, c.mark, c.offset, if c.hostData then 0 else p.mask, byteOf c.frames, false, c.short,
    c.hostData, false, c.samples⟩

/-- R20, R21: a seal that proceeds. With the line ACTIVE the position becomes QUEUED and a fresh DATA offer is
admitted; otherwise it becomes SENT. -/
def State.seal (s : State) (n : StreamNo) (c : SealContent) : State :=
  match s.pub n with
  | some p =>
    let r := p.sealRecord s.ownAddr n c
    let q := p.setPos p.target fun _ => if s.line = .active then .queued r else .sent r
    let t := s.setPub n (some { q with head := some ⟨p.nextSeq, p.target⟩, sealedCount := satInc p.sealedCount })
    if s.line = .active then t.addOffer (.fresh n p.target) else t
  | none => s

/-- R22: a backlog overrun of a capture seal. -/
def State.overrun (s : State) (n : StreamNo) (frames : Nat) : State :=
  match s.pub n with
  | some p =>
    let total := satAdd p.overrunFrames frames
    (s.setPub n (some { p with overrunFrames := total })).post .pubOverrun (.stream n) total
  | none => s

/-- R20, R22, R39, R41: a builder asks for a seal; it proceeds or is a backlog overrun. -/
def State.captureSeal (s : State) (n : StreamNo) (c : SealContent) : State :=
  match s.pub n with
  | some p => if p.backlogged then s.overrun n c.frames else s.seal n c
  | none => s

/-! ### Removal -/

/-- The offers of a stream's positions that are not in flight are withdrawn, and each position so freed becomes
SENT (R15, R16, R25). -/
def State.withdrawData (s : State) (n : StreamNo) : State :=
  let t := s.withdrawWhere fun i => i.isDataOf n
  t.modPub n fun p =>
    { p with ring := p.ring.mapIdx fun i x =>
        if t.offerInFlight (.fresh n i) then x else { x with state := x.state.toSent } }

/-- R15, R17: the record is removed, with any offer entry left of it, and its slots return to the pool. -/
def State.removePub (s : State) (n : StreamNo) : State :=
  match s.pub n with
  | some p =>
    let t := s.withdrawWhere fun i => i.isDataOf n
    { t.setPub n none with freeSlots := returnSlots p.handles s.freeSlots }
  | none => s

/-- R17: the outcome of the parcel in flight of a CLOSING publication. -/
def State.finishClosing (s : State) (n : StreamNo) (p : Pub) : State :=
  (s.removePub n).post .pubClosed (.stream n) (p.gen.setWidth 16)

/-! ### Outcomes of DATA offers -/

/-- R23, R24: SENT or exhausted: the position becomes SENT, and a resend that was sent is counted. -/
def Pub.offerDone (p : Pub) (i : Nat) (countResend : Bool) : Pub :=
  let q := p.setPos i PosState.toSent
  if countResend then { q with resendCount := satInc q.resendCount } else q

/-- R17, R23, R24: a DATA offer was SENT or exhausted; its entry has left the list. -/
def State.dataDone (s : State) (n : StreamNo) (i : Nat) (countResend : Bool) : State :=
  match s.pub n with
  | some p =>
    if p.state = .closing then s.finishClosing n p
    else s.setPub n (some (p.offerDone i countResend))
  | none => s

/-- R17, R23 to R25: a DATA offer was LOST, or FAILED below the limit; its entry would stay. -/
def State.dataKept (s : State) (n : StreamNo) (i : Nat) : State :=
  match s.pub n with
  | some p =>
    if p.state = .closing then s.finishClosing n p
    else if s.line = .active then s
    else (s.withdraw (.fresh n i)).setPub n (some (p.setPos i PosState.toSent))
  | none => s.withdraw (.fresh n i)

/-! ### The pending GONE range -/

/-- R91: the earlier of two sequences, absent when they lie half-way apart. -/
def earlierOf (a b : Seq) : Option Seq :=
  if dist a b = 32768 then none else if later a b then some b else some a

/-- R91: the later of two sequences, absent when they lie half-way apart. -/
def laterOf (a b : Seq) : Option Seq :=
  if dist a b = 32768 then none else if later a b then some a else some b

/-- R91, R92: a new range joins a present one: merged, or put in its place. -/
def GoneRange.join (old new : GoneRange) : GoneRange :=
  if old.gen = new.gen then
    match earlierOf old.first new.first, laterOf old.last new.last with
    | some f, some l => if earlier l f then new else ⟨new.gen, f, l⟩
    | _, _ => new
  else new

/-- R90: a range is added to the pending GONE range of a stream number. -/
def State.addGone (s : State) (n : StreamNo) (g : GoneRange) : State :=
  match (s.stream n).gone with
  | some old => s.setGone n (some (old.join g))
  | none => (s.setGone n (some g)).addOffer (.gone n)

/-- R93: LOST or FAILED below the limit: the entry stays exactly while the range is present. -/
def State.goneKept (s : State) (n : StreamNo) : State :=
  if (s.stream n).gone.isSome then s else s.withdraw (.gone n)

/-! ### An ASK at the publisher -/

/-- R87: what an asked sequence is to the publication. -/
inductive AskedClass
  /-- Not sealed yet. -/
  | ignored
  /-- Kept at a ring position. -/
  | retained (pos : Nat)
  /-- Evicted. -/
  | gone
  deriving DecidableEq, Repr

/-- R19: the position of the sequence at distance `j` before L. -/
def Pub.posBefore (p : Pub) (t : Head) (j : Nat) : Nat := (t.pos + p.size - j) % p.size

/-- R19, R87: the class of an asked sequence. -/
def Pub.classify (p : Pub) (x : Seq) : AskedClass :=
  match p.head with
  | none => .ignored
  | some t =>
    if later x t.last then .ignored
    else if dist x t.last < p.retained then .retained (p.posBefore t (dist x t.last))
    else .gone

/-- The `count` sequences counting forward from `first` (R86). -/
def askedRun (first : Seq) (count : Nat) : List Seq := (List.range count).map fun j => first + word16Of j

/-- R87: the length of the leading run of gone sequences. -/
def Pub.leadingGone (p : Pub) (run : List Seq) : Nat := (run.takeWhile fun x => p.classify x == .gone).length

/-- R87, R88: one asked sequence: a SENT position becomes RESEND and its resend is admitted. -/
def State.resendOne (s : State) (n : StreamNo) (x : Seq) : State :=
  match s.pub n with
  | some p =>
    match p.classify x with
    | .retained i =>
      match p.posAt i with
      | .sent r => (s.setPub n (some (p.setPos i fun _ => .resend r))).addOffer (.resend n i)
      | _ => s
    | _ => s
  | none => s

/-- R90: a range of `count` sequences from `first` is added; an empty one changes nothing. -/
def State.addGoneRun (s : State) (n : StreamNo) (g : Gen) (first : Seq) (count : Nat) : State :=
  if count = 0 then s else s.addGone n ⟨g, first, first + word16Of (count - 1)⟩

/-- R86 to R89: an ASK whose target is the own address. -/
def State.answerAsk (s : State) (a : AskBody) : State :=
  if s.line = .active then
    let run := askedRun a.first a.count.toNat
    match s.pub a.stream with
    | some p =>
      if p.state ≠ .closing ∧ p.gen = a.gen then
        run.foldl (fun t x => t.resendOne a.stream x) (s.addGoneRun a.stream a.gen a.first (p.leadingGone run))
      else s.addGoneRun a.stream a.gen a.first a.count.toNat
    | none => s.addGoneRun a.stream a.gen a.first a.count.toNat
  else s

/-! ### What goes on the line -/

/-- R4, R21: the DATA body of a retained record; a resend carries RESENT. -/
def dataBodyOf (r : Record) (resent : Bool) : DataBody :=
  ⟨resent, r.short, r.hostData, r.stream, r.gen, r.seq, r.mark, r.offset, r.mask, r.frames, r.samples⟩

/-- R4, R135: the DATA body of a ring position. -/
def State.dataBody (s : State) (n : StreamNo) (i : Nat) (resent : Bool) : Option DataBody :=
  match s.pub n with
  | some p => (p.posAt i).record.map fun r => dataBodyOf r resent
  | none => none

/-- R29: the advertisement of a publication in ARMED or RUNNING. -/
def Pub.advert (p : Pub) (n : StreamNo) : Option Advert :=
  if p.state = .closing then none
  else
    some ⟨n, p.gen,
      match p.head, p.oldest with
      | some t, some o => some (o, t.last)
      | _, _ => none⟩

/-- R125: the list of a HELLO, ascending by stream number. -/
def State.ownAdverts (s : State) : List Advert :=
  allStreams.filterMap fun n =>
    match s.pub n with
    | some p => p.advert n
    | none => none

/-! ### The line leaves ACTIVE -/

/-- R25: every position's offer not in flight is withdrawn, and each such position becomes SENT. -/
def State.withdrawAllData (s : State) : State := allStreams.foldl State.withdrawData s

/-- R93: every pending GONE range is cleared, and its offer withdrawn unless in flight. -/
def State.clearGones (s : State) : State :=
  allStreams.foldl (fun t n => (t.setGone n none).withdraw (.gone n)) s

end Sys2Proof.Machine
end

