-- ==== Sys2Proof/Machine/Capture.lean ====
section
/-! DEFINITION. The capture unit (spec/03): the samples of a frame (R33), the builders at a frame arrival (R35, R38,
R39) and the capture unit's part of a mark adoption (R14, R41). -/

namespace Sys2Proof.Machine

open Sys2Proof

/-- R37: a builder as it is created. -/
def Builder.empty : Builder := ⟨0, 0, [], none⟩

/-- R39: the restart of a builder; the decimation phase is not touched. -/
def Builder.restart (b : Builder) : Builder := { b with collected := 0, samples := [], stamps := none }

/-- R33: the sample of a channel. The first bit sampled is the most significant of the 128, and word 0 is
channel 0. -/
def frameSample (bits : BitVec 128) (channel : Nat) : Sample := bits.extractLsb' (112 - 16 * channel) 16

/-- R38: the samples a mask takes from a frame, lowest channel first. -/
def maskedSamples (mask : Byte) (bits : BitVec 128) : List Sample := (channels mask).map (frameSample bits)

/-- R38, steps 1 and 2: a builder handles a frame with its offset. -/
def Builder.offer (b : Builder) (mask : Byte) (d : Nat) (m : MarkNo) (offset : Word16) (bits : BitVec 128) : Builder :=
  let phase := if b.phase + 1 < d then b.phase + 1 else 0
  if b.phase = 0 then
    { phase := phase
      collected := b.collected + 1
      samples := b.samples ++ maskedSamples mask bits
      stamps := if b.collected = 0 then some (m, offset) else b.stamps }
  else { b with phase := phase }

/-- R39, R41: the content a builder asks to have sealed. -/
def Builder.content (b : Builder) (short : Bool) : SealContent :=
  match b.stamps with
  | some (m, f) => ⟨m, f, b.collected, short, false, b.samples⟩
  | none => ⟨0, 0, b.collected, short, false, b.samples⟩

/-- Replaces the builder of a publication. -/
def State.setBuilder (s : State) (n : StreamNo) (b : Builder) : State :=
  s.modPub n fun p => { p with builder := some b }

/-- R39, R41: a builder seals what it holds, full or short, and restarts empty. -/
def State.sealBuilder (s : State) (n : StreamNo) (b : Builder) (short : Bool) : State :=
  (s.captureSeal n (b.content short)).setBuilder n b.restart

/-- R38: the builder of one stream number handles a frame. -/
def State.frameAt (offset : Word16) (bits : BitVec 128) (s : State) (n : StreamNo) : State :=
  match s.pub n with
  | some p =>
    match p.state, p.source, p.builder with
    | .running, .capture, some b =>
      let b' := b.offer p.mask p.d s.markNo offset bits
      if p.k ≤ b'.collected then s.sealBuilder n b' false else s.setBuilder n b'
    | _, _, _ => s
  | none => s

/-- R35: F is increased by one, and stays at 65535. -/
def nextOffset (f : Word16) : Word16 := satInc f

/-- R35, R38: a frame arrives. -/
def State.frame (s : State) (bits : BitVec 128) : State :=
  let t := allStreams.foldl (State.frameAt s.frameOffset bits) s
  { t with frameOffset := nextOffset s.frameOffset }

/-! ### A mark adoption -/

/-- R41, step 1: the short seal of one stream number. -/
def State.shortSeal (s : State) (n : StreamNo) : State :=
  match s.pub n with
  | some p =>
    match p.state, p.source, p.builder with
    | .running, .capture, some b => if 1 ≤ b.collected then s.sealBuilder n b true else s
    | _, _, _ => s
  | none => s

/-- R41, steps 3 and 4: the phase of the builder becomes 0, and ARMED becomes RUNNING (R14). -/
def Pub.adopt (p : Pub) : Pub :=
  { p with
    state := if p.state = .armed then .running else p.state
    builder := p.builder.map fun b => { b with phase := 0 } }

/-- R41: the capture unit's part of an adoption. -/
def State.captureAdopt (s : State) : State :=
  let t := allStreams.foldl State.shortSeal s
  allStreams.foldl (fun u n => u.modPub n Pub.adopt) { t with frameOffset := 0 }

end Sys2Proof.Machine
end

