-- ==== Sys2Proof/Machine/Marks.lean ====
section
/-! DEFINITION. The mark unit (spec/06): triggers (R99), adoption (R110), marks of peers (R106 to R108), the rank
(R112), and what happens to the request when the line leaves ACTIVE (R105). -/

namespace Sys2Proof.Machine

open Sys2Proof

/-- R112: the rank of every parcel that starts now. -/
def State.rank (s : State) : BitVec 6 := s.ownAddr + s.markNo.setWidth 6

/-- R99: a trigger while the line is ACTIVE sets P and admits a MARK offer, or is absorbed. -/
def State.trigger (s : State) : State :=
  if s.markPending then s else ({ s with markPending := true }).addOffer .mark

/-- R102: the interval timer as it is started or restarted. -/
def State.intervalStart (s : State) : Timer :=
  match s.config with
  | some c => c.intervalStart
  | none => .stopped

/-- R110: an adoption, whole. -/
def State.adopt (s : State) (m : MarkNo) (src : MarkSource) (origin : Addr) : State :=
  let t := { s with markNo := m, lastMark := some ⟨m, src, origin, s.frameOffset⟩ }
  let t := t.captureAdopt
  let t := if t.line = .active then { t with intervalTimer := t.intervalStart } else t
  t.post .markAdopted .none m

/-- R107: an adoption from a peer satisfies a pending request. -/
def State.satisfyRequest (s : State) : State :=
  if s.markPending then ({ s with markPending := false }).withdraw .mark else s

/-- R106: a peer's MARK in ACTIVE, DEPARTING or MUTE. -/
def State.peerMark (s : State) (m : MarkNo) (origin : Addr) : State :=
  if later m s.markNo then
    let t := s.satisfyRequest.adopt m .peer origin
    if 2 ≤ dist s.markNo m then t.post .markGap .none (word16Of (dist s.markNo m - 1)) else t
  else s.post .markStale (.address origin) m

/-- R108: a mark number heard in LISTENING. -/
def State.joinMark (s : State) (m : MarkNo) (origin : Addr) : State :=
  if later m s.markNo then s.satisfyRequest.adopt m .join origin else s

/-- R105: the line leaves ACTIVE. -/
def State.markLeavesActive (s : State) : State :=
  let t := { s with intervalTimer := .stopped }
  if t.markPending = true ∧ t.offerInFlight .mark = false then
    ({ t with markPending := false }).withdraw .mark
  else t

/-- R104, R105: the own MARK was sent, carrying `m`. -/
def State.markSent (s : State) (m : MarkNo) : State :=
  ({ s with markPending := false }).adopt m .own s.ownAddr

/-- R104, R105: the own MARK is exhausted; its last attempt carried `m`. Outside ACTIVE the request is dropped
silently. -/
def State.markExhausted (s : State) (m : MarkNo) : State :=
  let t := { s with markPending := false }
  if s.line = .active then t.post .markFailed .none m else t

/-- R104, R105: the own MARK was LOST or FAILED below the limit. Outside ACTIVE P is cleared and the entry
withdrawn. -/
def State.markKept (s : State) : State :=
  if s.line = .active then s else ({ s with markPending := false }).withdraw .mark

end Sys2Proof.Machine
end

