-- ==== Sys2Proof/Machine/Line.lean ====
section
/-! DEFINITION. The line interface and the offer scheduler (spec/08, spec/09): the changes of the line state and what
each does to the other blocks (R134, R146, R149 to R152), the selection and composition of a parcel (R135, R156), and
the outcomes (R137 to R143). -/

namespace Sys2Proof.Machine

open Sys2Proof

/-! ### Changes of the line state -/

/-- R182: the detail of LINE_STATE, state code in the high byte and cause code in the low byte. -/
def LineState.detail (l : LineState) : Word16 := word16 l.code l.causeCode

/-- R146: a change that no command makes posts LINE_STATE. -/
def State.postLine (s : State) : State := s.post .lineState .none s.line.detail

/-- R133, R134: withdraws every HELLO of a sort unless in flight. -/
def State.withdrawHello (s : State) (sort : HelloSort) : State :=
  s.withdrawWhere fun i => decide (i = .hello sort)

/-- R146: what leaving ACTIVE does, the line state having changed: the withdrawals of R134, with R25, R83, R93,
R105 and R123. -/
def State.leavingActive (s : State) : State :=
  let t := s.withdrawAllData.clearGones.parkRepairs.markLeavesActive
  { t with presenceTimer := .stopped }.withdrawHello .presence

/-- The line state changes; leaving ACTIVE is told to the blocks (R146). -/
def State.moveLine (s : State) (l : LineState) : State :=
  let t := { s with line := l }
  if s.line = .active then t.leavingActive else t

/-- R126: a peer entry as the line enters OFFLINE; SELF stays. -/
def PeerEntry.offline (e : PeerEntry) : PeerEntry :=
  if e.state = .self then e else { e with state := .unknown, adverts := [], timerOn := false }

/-- Every address of the roster, ascending. -/
def allPlaces : List (Fin 62) := List.finRange 62

/-- R126: every peer entry as the line enters OFFLINE. -/
def State.rosterOffline (s : State) : State :=
  allPlaces.foldl (fun (t : State) (i : Fin 62) => { t with roster := t.roster.set i t.roster[i].offline }) s

/-- R134, R146, R153, R158: entering OFFLINE. A HELLO not in flight is withdrawn, the listen span timer stops, and
the receiving side reads nothing further. -/
def State.enterOffline (s : State) : State :=
  let t := (s.moveLine .offline).withdrawWhere fun i => i.sameResource (.hello .join)
  { t.rosterOffline with
    listenTimer := .stopped
    lineIdle := false
    assembling := false
    bits := { s.bits with recessive := 0, rx := none, left := true } }

/-- R134, R146: entering MUTE. Every entry not in flight is withdrawn and the listen span timer stops. -/
def State.enterMute (s : State) (c : MuteCause) : State :=
  let t := (s.moveLine (.mute c)).withdrawWhere fun _ => true
  { t with listenTimer := .stopped }.postLine

/-- R123: the presence timer with its full period. -/
def State.presenceStart (s : State) : Timer :=
  match s.config with
  | some c => .running c.presenceMicros
  | none => .stopped

/-- R146, R149: entering ACTIVE. -/
def State.enterActive (s : State) : State :=
  let t := ({ s with line := .active, listenTimer := .stopped } : State).unparkRepairs
  { t with intervalTimer := t.intervalStart, presenceTimer := t.presenceStart }.postLine

/-- R147, R148, R153: entering LISTENING by JOIN. From OFFLINE the idle count starts at 0; from MUTE it is kept. -/
def State.enterListening (s : State) : State :=
  { s with
    line := .listening
    streak := 0
    listenTimer := match s.config with
      | some c => .running c.listenSpanMicros
      | none => .stopped
    lineIdle := if s.line = .offline then false else s.lineIdle
    assembling := if s.line = .offline then false else s.assembling
    bits := if s.line = .offline then { s.bits with recessive := 0, rx := none } else s.bits }

/-- R134, R150: entering DEPARTING. The departure HELLO is admitted at once if the HELLO place is free; held by a
presence HELLO in flight, it waits for that outcome. -/
def State.enterDeparting (s : State) : State := (s.moveLine .departing).addOffer (.hello .departure)

/-- R151: an address conflict at the line interface. -/
def State.conflict (s : State) : State :=
  match s.line with
  | .listening => s.enterMute .conflict
  | .active => s.enterMute .conflict
  | .departing => s.enterMute .conflict
  | .mute .lineFault => { s with line := .mute .conflict }.postLine
  | .mute .conflict => s
  | .offline => s
  | .unconfigured => s

/-! ### Starting a parcel -/

/-- R156: the entries the line state allows. -/
def LineState.allows (l : LineState) (i : OfferItem) : Bool :=
  match l with
  | .active => true
  | .listening => decide (i = .hello .join)
  | .departing => decide (i = .hello .departure)
  | _ => false

/-- R135: of two entries in admission order, the one that goes first: the lower class, else the older. -/
def earlierOffer (best o : Offer) : Offer := if o.item.cls < best.item.cls then o else best

/-- R135: the entry selected: lowest class, then lowest admission number. -/
def selectOffer : List Offer → Option Offer
  | [] => none
  | o :: os => some (os.foldl earlierOffer o)

/-- R135: the entry selected among those the line state allows. -/
def State.selected (s : State) : Option Offer := selectOffer (s.offers.filter fun o => s.line.allows o.item)

/-- R125: the content of a HELLO that starts now. -/
def State.helloBody (s : State) : Option HelloBody :=
  match s.config with
  | some c => some ⟨c.unit, c.token, s.markNo, c.presence, decide (s.line = .departing), s.ownAdverts⟩
  | none => none

/-- R135: the body its owner composes for an entry. -/
def State.composeBody (s : State) : OfferItem → Option Body
  | .mark => some (.mark (s.markNo + 1))
  | .ask h => match s.sub h with
    | some w => w.askBody.map Body.ask
    | none => none
  | .gone n => (s.stream n).gone.map fun g => .gone ⟨n, g.gen, g.first, g.last⟩
  | .fresh n i => (s.dataBody n i false).map Body.data
  | .resend n i => (s.dataBody n i true).map Body.data
  | .hello _ => s.helloBody.map Body.hello

/-- R135, R154: the parcel of an entry, with class, rank and origin. -/
def State.compose (s : State) (i : OfferItem) : Option Parcel :=
  (s.composeBody i).map fun b => ⟨⟨BitVec.ofNat 2 i.cls, s.rank, s.ownAddr⟩, b⟩

/-- R156: the conditions on the line for a start: idle, nothing being assembled, nothing of the station on it. -/
def State.mayStart (s : State) : Bool := s.lineIdle && !s.assembling && s.flying.isNone

/-- R135, R156, R157: a parcel starts: the selected entry is composed and marked in flight, and none of its bits is on
the line yet. -/
def State.startParcel (s : State) : State :=
  if s.mayStart then
    match s.selected with
    | some o =>
      match s.compose o.item with
      | some p =>
        { s with
          offers := s.offers.map fun x => if x.item = o.item then { x with flight := some p } else x
          lineIdle := false
          bits := LineBits.reset }
      | none => s
    | none => s
  else s

/-! ### Outcomes -/

/-- R138, R140: the scheduler removes the entry in flight. -/
def State.removeFlying (s : State) : State := { s with offers := s.offers.filter fun o => !o.inFlight }

/-- R137, R139, R140: the in-flight mark is cleared and the entry stays at its place, with its failures count. -/
def State.landFlying (s : State) (failures : Nat) : State :=
  { s with offers := s.offers.map fun o => if o.inFlight then { o with flight := none, failures := failures } else o }

/-- R104: the number a MARK parcel carries. -/
def Offer.markCarried (o : Offer) : MarkNo :=
  match o.flight with
  | some ⟨_, .mark m⟩ => m
  | _ => 0

/-- R17, R23, R24, R78, R93, R104, R105, R124, R134, R141, R149, R150: what the owner does when its entry was
SENT (`sent`) or exhausted, the entry having left the list. -/
def State.ownerDone (s : State) (o : Offer) (sent : Bool) : State :=
  match o.item with
  | .mark => if sent then s.markSent o.markCarried else s.markExhausted o.markCarried
  | .ask h => s.askDone h
  | .gone n => s.setGone n none
  | .fresh n i => s.dataDone n i false
  | .resend n i => s.dataDone n i sent
  | .hello .join => if sent = true ∧ s.line = .listening then s.enterActive else s
  | .hello .presence =>
    if s.line = .departing then s.addOffer (.hello .departure)
    else if sent = true ∧ s.line = .active then { s with presenceTimer := s.presenceStart }
    else s
  | .hello .departure => if s.line = .departing then s.enterOffline.postLine else s

/-- R17, R25, R78, R93, R105, R134, R142, R149: what the owner does when its entry was LOST or FAILED below the limit,
the entry standing in the list, not in flight: it stays, or the owner withdraws it. A join HELLO whose station has been
taken to OFFLINE since its start is withdrawn, whatever the line state now (R149). -/
def State.ownerKept (s : State) (o : Offer) : State :=
  match o.item with
  | .mark => s.markKept
  | .ask h => if s.wantsAsk h then s else s.withdraw (.ask h)
  | .gone n => s.goneKept n
  | .fresh n i => s.dataKept n i
  | .resend n i => s.dataKept n i
  | .hello .join => if s.line = .listening ∧ s.bits.left = false then s else s.withdrawHello .join
  | .hello .presence =>
    if s.line = .active then s
    else if s.line = .departing then (s.withdrawHello .presence).addOffer (.hello .departure)
    else s.withdrawHello .presence
  | .hello .departure => if s.line = .departing then s else s.withdrawHello .departure

/-- R138: the outcome SENT. -/
def State.outcomeSent (s : State) : State :=
  match s.flying with
  | some o =>
    ({ s with streak := 0, lineIdle := false, assembling := false, bits := s.bitsSent } : State).removeFlying.ownerDone o
      true
  | none => s

/-- R158, R159: after LOST or FAILED the receiving side goes on with the parcel on the line, where the state receives
and the line has not entered OFFLINE since the parcel started. -/
def State.fallBack (s : State) : State := { s with lineIdle := false, assembling := s.mayAssemble }

/-- R139: the outcome LOST. -/
def State.outcomeLost (s : State) : State :=
  match s.flying with
  | some o => (s.fallBack.landFlying o.failures).ownerKept o
  | none => s

/-- R140, R141: the failures count after a FAILED outcome; the join HELLO is exempt. -/
def Offer.failuresAfter (o : Offer) : Nat := if o.item = .hello .join then 0 else o.failures + 1

/-- R140: the FAILED outcome reaches the owner: exhausted at the fourth failure, kept below it. -/
def State.failedAtOwner (s : State) (o : Offer) : State :=
  if 4 ≤ o.failuresAfter then s.removeFlying.ownerDone o false
  else (s.landFlying o.failuresAfter).ownerKept o

/-- R143: the states a streak of 16 mutes. -/
def LineState.mutable (l : LineState) : Bool :=
  match l with
  | .listening => true
  | .active => true
  | .departing => true
  | _ => false

/-- R152: a streak of 16 in LISTENING, ACTIVE or DEPARTING takes the line to MUTE. -/
def State.streakMutes (s : State) : State := if s.line.mutable then s.enterMute .lineFault else s

/-- R143: the owner and the line interface are told of the FAILED outcome that raises the streak to 16, in a free
order (`Config.exhaustionFirst`, log entry 5). The in-flight mark is already cleared (R152). -/
def State.failedAtLimit (s : State) (o : Offer) : State :=
  let t := { s with freeDraws := s.freeDraws + 1 }
  if Config.exhaustionFirst s.freeDraws then (t.failedAtOwner o).streakMutes
  else
    if 4 ≤ o.failuresAfter then t.removeFlying.streakMutes.ownerDone o false
    else (t.landFlying o.failuresAfter).streakMutes.ownerKept o

/-- R140, R143: the outcome FAILED. -/
def State.outcomeFailed (s : State) : State :=
  match s.flying with
  | some o =>
    let t := { s.fallBack with streak := min 16 (s.streak + 1) }
    if t.streak = 16 ∧ t.line.mutable = true then t.failedAtLimit o else t.failedAtOwner o
  | none => s

end Sys2Proof.Machine
end

