-- ==== Sys2Proof/Machine/Roster.lean ====
section
/-! DEFINITION. The roster (spec/07) and the handing on of an accepted parcel (R161): the presence step (R116), the
address conflict (R117), a HELLO (R118 to R120), the silence thresholds (R122), and the end of a reception (R159). -/

namespace Sys2Proof.Machine

open Sys2Proof

/-! ### Hearing a peer -/

/-- R116: the presence step on the entry of an origin. -/
def State.presence (s : State) (a : Addr) (kind : Byte) : State :=
  let e := s.peer a
  match e.state with
  | .unknown =>
    ((s.setPeer a { e with state := .present, timerOn := true }).post .peerJoined (.address a)
      (kind.setWidth 16)).signal a State.originBack
  | .gone =>
    ((s.setPeer a { e with state := .present, timerOn := true }).post .peerJoined (.address a)
      (kind.setWidth 16)).signal a State.originBack
  | .silent => s.setPeer a { e with state := .present, timerOn := true }
  | .present => s.setPeer a { e with timerOn := true }
  | .self => s

/-- R117, R151: an accepted parcel whose origin is the own address. -/
def State.addressConflict (s : State) (kind : Byte) : State :=
  (s.post .addressConflict (.address s.ownAddr) (kind.setWidth 16)).conflict

/-! ### HELLO -/

/-- R119: the list as it is stored: the first advertisement of each stream number. -/
def firstPerStream : List Advert → List Advert
  | [] => []
  | a :: as => a :: (firstPerStream as).filter fun x => decide (x.stream ≠ a.stream)

/-- R118, step 1: the restart check. -/
def State.restartCheck (s : State) (a : Addr) (b : HelloBody) : State :=
  match (s.peer a).identity with
  | some i =>
    if i.unit ≠ b.unit ∨ i.token ≠ b.token then
      (s.post .peerRestarted (.address a) b.token).signal a State.restarted
    else s
  | none => s

/-- R118, step 2: storing. -/
def State.storeHello (s : State) (a : Addr) (b : HelloBody) : State :=
  s.setPeer a
    { s.peer a with
      identity := some ⟨b.unit, b.token⟩
      interval := some (if b.interval = 0 then 1 else b.interval)
      mark := some b.mark
      adverts := firstPerStream b.adverts }

/-- The stored advertisement of a stream (R48, R119). -/
def PeerEntry.advertOf (e : PeerEntry) (n : StreamNo) : Option Advert := e.adverts.find? fun x => decide (x.stream = n)

/-- R119: advertised or not listed, for one subscription of the origin. -/
def State.listSignal (l : List Advert) (s : State) (h : SubHandle) : State :=
  match s.sub h with
  | some w =>
    match l.find? fun x => decide (x.stream = w.stream) with
    | some x => s.advertised h x
    | none => s.notListed h
  | none => s

/-- R120, R122: the entry becomes GONE, PEER_GONE is posted, and the gone signal is given. -/
def State.peerGone (s : State) (a : Addr) (detail : Word16) : State :=
  ((s.setPeer a { s.peer a with state := .gone, adverts := [], timerOn := false }).post .peerGone (.address a)
    detail).signal a State.originGone

/-- R118: a HELLO, after the presence step. -/
def State.hello (s : State) (a : Addr) (b : HelloBody) : State :=
  let t := (s.restartCheck a b).storeHello a b
  if b.departing then t.peerGone a 1
  else t.signal a (State.listSignal (firstPerStream b.adverts))

/-! ### Silence -/

/-- R122: the silence timer of a PRESENT entry reaches 3 times the effective interval. -/
def State.silenceSilent (s : State) (a : Addr) : State :=
  let e := s.peer a
  if e.state = .present ∧ e.timerOn = true then
    (s.setPeer a { e with state := .silent }).post .peerSilent (.address a) ((s.effectiveInterval e).setWidth 16)
  else s

/-- R122: the silence timer of a SILENT entry reaches 6 times the effective interval. -/
def State.silenceGone (s : State) (a : Addr) : State :=
  if (s.peer a).state = .silent ∧ (s.peer a).timerOn = true then s.peerGone a 0 else s

/-! ### Handing on -/

/-- R161, step 3: an accepted parcel goes to the block of its kind. -/
def State.dispatchBody (s : State) (a : Addr) : Body → State
  | .hello b =>
    let t := s.hello a b
    if t.line = .listening then t.joinMark b.mark a else t
  | .mark m => if s.line = .listening then s.joinMark m a else s.peerMark m a
  | .data d =>
    match s.subOf a d.stream with
    | some h => s.dataArrives h (recordOf a d)
    | none => s
  | .ask k =>
    if addrOf k.target = s.ownAddr then s.answerAsk k
    else
      match s.subOf (addrOf k.target) k.stream with
      | some h => s.suppress h k
      | none => s
  | .gone g =>
    match s.subOf a g.stream with
    | some h => s.goneArrives h g
    | none => s

/-- R161: an accepted parcel is handed on as one event. -/
def State.handOn (s : State) (p : Parcel) : State :=
  if p.header.origin = s.ownAddr then s.addressConflict p.body.kindCode
  else (s.presence p.header.origin p.body.kindCode).dispatchBody p.header.origin p.body

/-- R153, R159: a parcel has been received whole; the station waits for the line to be idle, which is three recessive
bits after the end field. -/
def State.endReception (s : State) : State := { s with lineIdle := false, assembling := false, bits := s.bits.ended }

/-- R159 to R161: a parcel is received whole; the filter passes it on or discards it. Nothing is received in a
state that reads nothing, while the own parcel is on the line, or when the start bit was not read on an idle
line. -/
def State.receive (s : State) (p : Parcel) : State :=
  if s.canReceive then
    if p.passes then s.endReception.handOn p else s.endReception
  else s

/-- R160: a parcel received whole, as bytes; the filter reads and checks it. -/
def State.receiveBytes (s : State) (bs : List Byte) : State :=
  if s.canReceive then
    match Filter.accept bs with
    | some p => s.endReception.handOn p
    | none => s.endReception
  else s

end Sys2Proof.Machine
end

