-- ==== Sys2Proof/Machine/Flags.lean ====
section
/-! DEFINITION. The responses of the host port: status codes (R167) and the byte layouts of section 11.4 and 11.5
with their flag bytes (R181, R182). -/

namespace Sys2Proof.Machine

open Sys2Proof

/-- R167: the status codes. -/
inductive Status
  | ok
  | empty
  | backlog
  | badArg
  | state
  | noRoom
  | notOwned
  | duplicate
  | noSuch
  | unknown
  deriving DecidableEq, Repr

/-- R167: the code of a status. -/
def Status.code : Status → Byte
  | .ok => 0x00
  | .empty => 0x01
  | .backlog => 0x02
  | .badArg => 0x10
  | .state => 0x11
  | .noRoom => 0x12
  | .notOwned => 0x13
  | .duplicate => 0x14
  | .noSuch => 0x15
  | .unknown => 0x1F

/-- R164: a response, status byte and data. Only OK carries data. -/
inductive Response
  | ok (data : List Byte)
  | refuse (status : Status)
  deriving DecidableEq, Repr

/-- R164: the response as bytes. -/
def Response.bytes : Response → List Byte
  | .ok data => Status.ok.code :: data
  | .refuse st => [st.code]

/-- R181: the flags byte of a TAKE header: bit 3 RESENT, bit 2 SHORT, bit 1 HOSTDATA, bit 0 LOST. -/
def Record.flags (r : Record) : Byte :=
  flagBit 3 r.resent ||| flagBit 2 r.short ||| flagBit 1 r.hostData ||| flagBit 0 r.lost

/-- R181: the TAKE header, 14 bytes. -/
def takeHeader (slot : Nat) (r : Record) : List Byte :=
  [byteOf slot, r.origin.setWidth 8, byteOf r.stream.val, r.gen] ++ be16 r.seq ++ be16 r.mark ++ be16 r.offset
    ++ [r.mask, r.frames, byteOf r.samples.length, r.flags]

/-- R172: the open subscriptions. -/
def State.openSubs (s : State) : Nat := s.subs.toList.countP Option.isSome

/-- R172: the publication records, those in CLOSING included. -/
def State.pubRecords (s : State) : Nat := s.streams.toList.countP fun r => r.pub.isSome

/-- R172, R181: the last-mark fields of STATUS: number, source code, origin, span; 0 when absent. -/
def lastMarkBytes : Option LastMark → List Byte
  | some l => be16 l.number ++ [l.source.code, l.origin.setWidth 8] ++ be16 l.span
  | none => [0, 0, 0, 0, 0, 0]

/-- R172, R181: STATUS, 18 bytes. -/
def State.statusBytes (s : State) : List Byte :=
  [flagBit 0 s.configured ||| flagBit 1 s.markPending ||| flagBit 2 s.lastMark.isNone, s.line.code, s.line.causeCode,
    s.startCause.code] ++ be16 s.markNo ++ lastMarkBytes s.lastMark ++ be16 (word16Of s.freeCount)
    ++ [byteOf s.notices.length, byteOf s.streak, byteOf s.openSubs, byteOf s.pubRecords]

/-- R28, R181: the pending GONE fields of PUB_STATUS: generation, first, last; 0 when absent. -/
def goneBytes : Option GoneRange → List Byte
  | some g => g.gen :: (be16 g.first ++ be16 g.last)
  | none => [0, 0, 0, 0, 0]

/-- The number of ring positions in a state (R28). -/
def Pub.countPos (p : Pub) (f : PosState → Bool) : Nat := p.ring.countP fun x => f x.state

/-- The position is EMPTY. -/
def PosState.isEmpty : PosState → Bool
  | .empty => true
  | _ => false

/-- The position is QUEUED. -/
def PosState.isQueued : PosState → Bool
  | .queued _ => true
  | _ => false

/-- The position is SENT. -/
def PosState.isSent : PosState → Bool
  | .sent _ => true
  | _ => false

/-- The position is RESEND. -/
def PosState.isResend : PosState → Bool
  | .resend _ => true
  | _ => false

/-- L of a record, 0 when nothing is sealed (R28, R181). -/
def Pub.lastOrZero (p : Pub) : Seq :=
  match p.head with
  | some t => t.last
  | none => 0

/-- O of a record, 0 when nothing is retained (R28, R181). -/
def Pub.oldestOrZero (p : Pub) : Seq :=
  match p.oldest with
  | some o => o
  | none => 0

/-- R28, R181: the record fields of PUB_STATUS from offset 8, 24 bytes. -/
def Pub.recordBytes (p : Pub) : List Byte :=
  [p.source.code, byteOf p.size, p.start.code, p.mask, byteOf p.k] ++ be16 (word16Of p.d) ++ [p.gen]
    ++ be16 p.lastOrZero ++ be16 p.oldestOrZero
    ++ [byteOf (p.countPos PosState.isEmpty), byteOf (p.countPos PosState.isQueued),
      byteOf (p.countPos PosState.isSent), byteOf (p.countPos PosState.isResend)]
    ++ be16 p.sealedCount ++ be16 p.resendCount ++ be16 p.overrunFrames ++ be16 p.backlogCount

/-- R28, R181: PUB_STATUS, 32 bytes. -/
def StreamRec.statusBytes (r : StreamRec) : List Byte :=
  match r.pub with
  | some p =>
    [p.state.code, r.counter,
      flagBit 0 r.gone.isSome ||| flagBit 1 p.head.isNone ||| flagBit 2 p.oldest.isNone] ++ goneBytes r.gone
      ++ p.recordBytes
  | none =>
    [0, r.counter, flagBit 0 r.gone.isSome ||| flagBit 1 true ||| flagBit 2 true] ++ goneBytes r.gone
      ++ List.replicate 24 0

/-- R181: h as a 16-bit two's complement value. -/
def horizonWord (h : Int) : Word16 := BitVec.ofInt 16 h

/-- R61, R181: G and N with their flag; 0 when absent. -/
def pointBytes : Option Point → List Byte
  | some q => [flagBit 0 true, q.gen] ++ be16 q.next
  | none => [0, 0, 0, 0]

/-- R61, R181: SUB_STATUS, 28 + t bytes. -/
def Sub.statusBytes (w : Sub) : List Byte :=
  [w.origin.setWidth 8, byteOf w.stream.val, byteOf w.size, w.policy.code, w.start.code, w.state.code]
    ++ pointBytes w.point ++ [byteOf w.p, byteOf w.b] ++ be16 (horizonWord w.h)
    ++ [byteOf (w.count SlotState.isFree), byteOf (w.count SlotState.isHeld), byteOf (w.count SlotState.isReady),
      byteOf (w.count SlotState.isLost), byteOf (w.count SlotState.isTaken)]
    ++ be16 w.delivered ++ be16 w.lost ++ be16 w.discarded
    ++ [w.repair.state.code, byteOf w.repair.attempts, byteOf w.takenHandles.length] ++ w.takenHandles.map byteOf

/-- R127, R181: a ROSTER response: state, identity, interval, mark, advertisements; absent fields 0. -/
def rosterBytes (st : PeerState) (i : Option Identity) (iv : Option Byte) (m : Option MarkNo) (l : List Advert) :
    List Byte :=
  [st.code, flagBit 0 i.isSome ||| flagBit 1 iv.isSome ||| flagBit 2 m.isSome]
    ++ (match i with
      | some x => be32 x.unit ++ be16 x.token
      | none => [0, 0, 0, 0, 0, 0])
    ++ [iv.getD 0] ++ be16 (m.getD 0) ++ [byteOf l.length] ++ l.flatMap Advert.bytes

/-- R127: the ROSTER response for an address: the entry of a peer, or the station's own. -/
def State.rosterOf (s : State) (a : Addr) : List Byte :=
  match s.config with
  | some c =>
    if a = s.ownAddr then
      rosterBytes .self (some ⟨c.unit, c.token⟩) (some c.presence) (some s.markNo) s.ownAdverts
    else rosterBytes (s.peer a).state (s.peer a).identity (s.peer a).interval (s.peer a).mark (s.peer a).adverts
  | none => rosterBytes (s.peer a).state (s.peer a).identity (s.peer a).interval (s.peer a).mark (s.peer a).adverts

/-- R176, R182: a notice record, 5 bytes. -/
def Notice.bytes (n : Notice) : List Byte := [n.kind.code, n.object.byte, byteOf n.count] ++ be16 n.detail

end Sys2Proof.Machine
end

