-- ==== Sys2Proof/Machine/HostPort.lean ====
section
/-! DEFINITION. The host port (spec/10): transactions (R162, R166), the taking of a command and the refusals at the
code byte (R163 to R165), and the commands of the part as a whole: CONFIGURE (R168), STATUS (R172), JOIN (R147), LEAVE
(R150), MARK (R100), NEXT_NOTICE (R176), ROSTER (R127). -/

namespace Sys2Proof.Machine

open Sys2Proof

/-- What a step answers: the next state; no step of this block faults or is refused. -/
abbrev Result := Host.Outcome State Fault Refusal

/-! ### Taking a command -/

/-- R162, R170: the port collects command bytes: a transaction is in COLLECTING and no reset is in progress. In
any other transaction state SDI is ignored. -/
def State.collecting (s : State) : Bool := decide (s.txn = .collecting) && !s.inReset

/-- R164: the response is composed whole at the taking, and the port passes to RESPONDING. -/
def State.respond (s : State) (r : Response) : State := { s with txn := .responding r.bytes }

/-- R163 to R165: a command that is allowed only after CONFIGURE. `run` is its effect and its response, computed
from the state at the taking. Before CONFIGURE it is answered STATE at its code byte. -/
def State.command (s : State) (run : State → State × Response) : State :=
  if s.collecting then
    if s.configured then (run s).1.respond (run s).2 else s.respond (.refuse .state)
  else s

/-- R162: a falling edge of SCS; in IDLE, outside a reset, it begins a transaction. A port that SCS has held low
through a reset has no edge to see (R170). -/
def State.scsFalls (s : State) : State :=
  if s.scsLow then s
  else
    { s with
      scsLow := true
      txn := if s.txn = .idle ∧ s.inReset = false then .collecting else s.txn }

/-- R166: a rising edge of SCS ends the transaction whatever its state; what is collected of a command is discarded. -/
def State.scsRises (s : State) : State := { s with scsLow := false, txn := .idle, spi := Spi.reset }

/-- R162, R164: the last response byte has been shifted out. -/
def State.responseEnds (s : State) : State :=
  match s.txn with
  | .responding _ => { s with txn := .done }
  | _ => s

/-- What SDO carries: released in IDLE, else a sequence of bytes that 0x00 follows (R162, R164). -/
def State.sdo (s : State) : Option (List Byte) :=
  match s.txn with
  | .idle => none
  | .collecting => some []
  | .responding bs => some bs
  | .done => some []

/-! ### Commands of the part as a whole -/

/-- R168: an image in range is stored: the configured flag is set, the line enters OFFLINE, the own entry becomes
SELF. -/
def State.applyImage (s : State) (c : Image) : State :=
  let t := { s with config := some c, line := .offline }
  t.setPeer (addrOf c.address) { t.peer (addrOf c.address) with state := .self }

/-- R147: JOIN. -/
def State.joinCommand (s : State) : State × Response :=
  match s.line with
  | .offline => (s.enterListening, .ok [])
  | .mute .lineFault => (s.enterListening, .ok [])
  | _ => (s, .refuse .state)

/-- R150: LEAVE. -/
def State.leaveCommand (s : State) : State × Response :=
  match s.line with
  | .active => (s.enterDeparting, .ok [LineState.departing.code])
  | .listening => (s.enterOffline, .ok [LineState.offline.code])
  | .mute .lineFault => (s.enterOffline, .ok [LineState.offline.code])
  | _ => (s, .refuse .state)

/-- R100: MARK. -/
def State.markCommand (s : State) : State × Response :=
  if s.line = .active then (s.trigger, .ok [if s.markPending then 1 else 0]) else (s, .refuse .state)

/-- R176: NEXT_NOTICE. -/
def State.nextNoticeCommand (s : State) : State × Response :=
  match s.notices with
  | [] => (s, .refuse .empty)
  | n :: q => ({ s with notices := q }, .ok n.bytes)

/-- R127: ROSTER. -/
def State.rosterCommand (address : Byte) (s : State) : State × Response :=
  if isAddress address then (s, .ok (s.rosterOf (addrOf address))) else (s, .refuse .badArg)

/-! ### Meanings -/

/-- CONFIGURE (R168); once configured it is answered STATE at its code byte (R165). -/
def execConfigure (image : Image) (s : State) : Result :=
  .next
    (if s.collecting then
      if s.configured then s.respond (.refuse .state)
      else if image.inRange then (s.applyImage image).respond (.ok [])
      else s.respond (.refuse .badArg)
    else s)

/-- STATUS (R172), allowed in every state. -/
def execStatus (s : State) : Result :=
  .next (if s.collecting then s.respond (.ok s.statusBytes) else s)

/-- JOIN (R147). -/
def execJoin (s : State) : Result := .next (s.command State.joinCommand)

/-- LEAVE (R150). -/
def execLeave (s : State) : Result := .next (s.command State.leaveCommand)

/-- MARK (R100). -/
def execMark (s : State) : Result := .next (s.command State.markCommand)

/-- NEXT_NOTICE (R176). -/
def execNextNotice (s : State) : Result := .next (s.command State.nextNoticeCommand)

/-- ROSTER (R127). -/
def execRoster (address : Byte) (s : State) : Result := .next (s.command (State.rosterCommand address))

/-- R180: the code byte names a command. -/
def knownCode (code : Byte) : Bool :=
  decide (code ∈ ([0x01, 0x02, 0x03, 0x04, 0x05, 0x06, 0x07, 0x10, 0x11, 0x12, 0x13, 0x20, 0x21, 0x22, 0x23, 0x24, 0x25,
    0x26, 0x30] : List Byte))

/-- A code byte that names no command (R165). A byte that names one is no such step: the port goes on collecting
(log entry 14). -/
def execUnknownCode (code : Byte) (s : State) : Result :=
  .next (if s.collecting = true ∧ knownCode code = false then s.respond (.refuse .unknown) else s)

/-- A falling edge of SCS (R162). -/
def execTransactionStart (s : State) : Result := .next s.scsFalls

/-- A rising edge of SCS (R166). -/
def execTransactionCut (s : State) : Result := .next s.scsRises

/-- The last response byte is shifted out (R162). -/
def execLastResponseByte (s : State) : Result := .next s.responseEnds

end Sys2Proof.Machine
end

