-- ==== Sys2Proof/Machine/PubCommands.lean ====
section
/-! DEFINITION. The host commands of the publication engine: OPEN_PUB (R12, R13), CLOSE_PUB (R15, R16), PUT (R26) and
PUB_STATUS (R28). -/

namespace Sys2Proof.Machine

open Sys2Proof

/-! ### OPEN_PUB -/

/-- R12, checks 1 and 2: the arguments of OPEN_PUB, as the fields of the record; absent is BAD_ARG. -/
def openPubArgs (source size start mask k : Byte) (d : Word16) : Option (Source × PubStart × Nat × Nat) :=
  match sourceOf source, pubStartOf start with
  | some src, some st =>
    if 2 ≤ size.toNat ∧ size.toNat ≤ 16 then
      match src with
      | .capture =>
        if mask ≠ 0 ∧ 1 ≤ k.toNat ∧ k.toNat ≤ 32 ∧ 1 ≤ d.toNat ∧ d.toNat ≤ 256
            ∧ channelCount mask * k.toNat ≤ 32 then
          some (src, st, k.toNat, d.toNat)
        else none
      | .host => if mask = 0 then some (src, st, 0, 0) else none
    else none
  | _, _ => none

/-- R13: the record an open creates. -/
def newPub (src : Source) (st : PubStart) (mask : Byte) (k d : Nat) (g : Gen) (handles : List Nat) : Pub where
  state := if st = .onMark then .armed else .running
  source := src
  start := st
  mask := mask
  k := k
  d := d
  gen := g
  head := none
  ring := handles.map fun x => ⟨x, .empty⟩
  sealedCount := 0
  resendCount := 0
  overrunFrames := 0
  backlogCount := 0
  builder := if src = .capture then some Builder.empty else none

/-- R13: the effects of an OPEN_PUB that passes every check. -/
def State.openPub (s : State) (n : StreamNo) (src : Source) (st : PubStart) (size : Nat) (mask : Byte) (k d : Nat) :
    State :=
  let g := (s.stream n).counter + 1
  let t := { s with freeSlots := s.freeSlots.drop size }
  (t.setStream n { s.stream n with counter := g, pub := some (newPub src st mask k d g (s.freeSlots.take size)) }).announce

/-- R12, R13: OPEN_PUB. -/
def State.openPubCommand (stream source size start mask k : Byte) (d : Word16) (s : State) : State × Response :=
  match streamOf stream, openPubArgs source size start mask k d with
  | some n, some (src, st, k', d') =>
    if (s.pub n).isSome then (s, .refuse .duplicate)
    else if s.freeCount < size.toNat then (s, .refuse .noRoom)
    else (s.openPub n src st size.toNat mask k' d', .ok [(s.stream n).counter + 1])
  | _, _ => (s, .refuse .badArg)

/-! ### CLOSE_PUB -/

/-- R15, R16: the offer of one of the stream's positions is in flight. -/
def State.dataInFlight (s : State) (n : StreamNo) : Bool := s.offers.any fun o => o.item.isDataOf n && o.inFlight

/-- R15: the close answered "closed". -/
def State.closePubNow (s : State) (n : StreamNo) : State := (s.removePub n).announce

/-- R16: the close answered "closing". -/
def State.closePubLater (s : State) (n : StreamNo) : State :=
  ((s.withdrawData n).modPub n fun p => { p with state := .closing, builder := none }).announce

/-- R15, R16: CLOSE_PUB. -/
def State.closePubCommand (stream : Byte) (s : State) : State × Response :=
  match streamOf stream with
  | some n =>
    match s.pub n with
    | some p =>
      if p.state = .closing then (s, .ok [1])
      else if s.dataInFlight n then (s.closePubLater n, .ok [1])
      else (s.closePubNow n, .ok [0])
    | none => (s, .refuse .noSuch)
  | none => (s, .refuse .badArg)

/-! ### PUT -/

/-- R21: what a PUT has sealed, with the mark number and the frame offset in force. -/
def State.putContent (s : State) (samples : List Sample) : SealContent :=
  ⟨s.markNo, s.frameOffset, 0, false, true, samples⟩

/-- R22: a PUT answered BACKLOG is counted. -/
def State.countBacklog (s : State) (n : StreamNo) : State :=
  s.modPub n fun p => { p with backlogCount := satInc p.backlogCount }

/-- R26: PUT. -/
def State.putCommand (stream count : Byte) (samples : List Sample) (s : State) : State × Response :=
  match streamOf stream with
  | some n =>
    if 1 ≤ count.toNat ∧ count.toNat ≤ 32 then
      match s.pub n with
      | some p =>
        if p.source = .capture then (s, .refuse .badArg)
        else if p.state ≠ .running then (s, .refuse .state)
        else if p.backlogged then (s.countBacklog n, .refuse .backlog)
        else (s.seal n (s.putContent (samples.take count.toNat)), .ok (be16 p.nextSeq))
      | none => (s, .refuse .noSuch)
    else (s, .refuse .badArg)
  | none => (s, .refuse .badArg)

/-- R163: the last byte of a PUT has arrived: with a count of 1..32, as many samples; else the count byte. -/
def putComplete (count : Byte) (samples : List Sample) : Bool :=
  decide (1 ≤ count.toNat ∧ count.toNat ≤ 32 → count.toNat ≤ samples.length)

/-! ### PUB_STATUS -/

/-- R28: PUB_STATUS. -/
def State.pubStatusCommand (stream : Byte) (s : State) : State × Response :=
  match streamOf stream with
  | some n => (s, .ok (s.stream n).statusBytes)
  | none => (s, .refuse .badArg)

/-! ### Meanings -/

/-- OPEN_PUB (R12, R13). -/
def execOpenPub (stream source size start mask k : Byte) (d : Word16) (s : State) : Result :=
  .next (s.command (State.openPubCommand stream source size start mask k d))

/-- CLOSE_PUB (R15, R16). -/
def execClosePub (stream : Byte) (s : State) : Result := .next (s.command (State.closePubCommand stream))

/-- PUT (R26). Before CONFIGURE it is refused at its code byte; a PUT whose samples have not all arrived is not
taken yet (R163, log entry 14). -/
def execPut (stream count : Byte) (samples : List Sample) (s : State) : Result :=
  .next
    (if s.configured = true ∧ putComplete count samples = false then s
    else s.command (State.putCommand stream count samples))

/-- PUB_STATUS (R28). -/
def execPubStatus (stream : Byte) (s : State) : Result := .next (s.command (State.pubStatusCommand stream))

end Sys2Proof.Machine
end

