-- ==== Sys2Proof/WellFormed.lean ====
section
/-! DEFINITION. Which terms of `Instr` are steps the spec can have: the operand combinations that cannot occur as the
row named are refused here. The argument bytes of a host command may hold anything, since the command itself answers
BAD_ARG. -/

namespace Sys2Proof

/-- R163: a PUT with a count of 1..32 is followed by that many samples, and with any other count by none. -/
def putShape (count : Byte) (samples : List Sample) : Bool :=
  if 1 ≤ count.toNat ∧ count.toNat ≤ 32 then decide (samples.length = count.toNat) else samples.isEmpty

/-- R114: the roster has an entry for the address. -/
def isPeerAddress (a : Addr) : Bool := decide (1 ≤ a.toNat ∧ a.toNat ≤ 62)

/-- The step is one the spec describes: a code byte that names no command (R165), an address the roster has (R114),
an accepted parcel that passes the filter, and discarded bytes that do not (R160). -/
def Instr.wellFormed : Instr → Bool
  | .configure _ => true
  | .restart => true
  | .status => true
  | .join => true
  | .leave => true
  | .mark => true
  | .nextNotice => true
  | .openPub _ _ _ _ _ _ _ => true
  | .closePub _ => true
  | .put _ count samples => putShape count samples
  | .pubStatus _ => true
  | .openSub _ _ _ _ _ => true
  | .closeSub _ => true
  | .take _ => true
  | .read _ _ _ => true
  | .release _ => true
  | .resume _ => true
  | .subStatus _ => true
  | .roster _ => true
  | .unknownCode code => !Machine.knownCode code
  | .transactionStart => true
  | .transactionCut => true
  | .powerUp => true
  | .resetnLow => true
  | .resetEnd _ => true
  | .frameStart => true
  | .frameArrival _ => true
  | .markinEdge _ => true
  | .askDelayExpiry _ => true
  | .answerWaitExpiry _ => true
  | .intervalTimerExpiry => true
  | .presenceTimerExpiry => true
  | .silenceTimerSilent address => isPeerAddress address
  | .silenceTimerGone address => isPeerAddress address
  | .listenSpanExpiry => true
  | .parcelStart => true
  | .outcomeSent => true
  | .outcomeLost => true
  | .outcomeFailed => true
  | .helloAccepted header hello => (Parcel.mk header (.hello hello)).passes
  | .markAccepted header number => (Parcel.mk header (.mark number)).passes
  | .dataAccepted header data => (Parcel.mk header (.data data)).passes
  | .askAccepted header ask => (Parcel.mk header (.ask ask)).passes
  | .goneAccepted header gone => (Parcel.mk header (.gone gone)).passes
  | .brokenParcel => true
  | .discardedParcel bytes => (Filter.accept bytes).isNone
  | .lineIdle => true
  | .supplyDrop => true
  | .lastResponseByte => true

end Sys2Proof
end

