-- ==== Sys2Proof/Decode.lean ====
section
/-! DEFINITION. Decoding. spec/opcode_table.json gives no row any bits; what the spec gives is the byte form of a
command transaction (R163, R180): `decodeCommand` reads one from its code byte on, `encodeCommand` writes one, and a
table word spells the command of its bytes (`decodeTableWord`, log entry 3). -/

namespace Sys2Proof

/-! ### Command transactions (R163, R180) -/

/-- Section 11.3: the configuration image from its sixteen bytes. -/
def decodeImage : List Byte → Option Image
  | [a, u3, u2, u1, u0, t1, t0, rate, pres, base, step, wait, att, edge, i1, i0] =>
    some ⟨a, Machine.word32 u3 u2 u1 u0, Machine.word16 t1 t0, rate, pres, base, step, wait, att, edge,
      Machine.word16 i1 i0⟩
  | _ => none

/-- Section 11.3: the sixteen bytes of an image. -/
def encodeImage (c : Image) : List Byte :=
  [c.address] ++ Machine.be32 c.unit ++ Machine.be16 c.token
    ++ [c.rateCode, c.presence, c.askBase, c.stagger, c.answerWait, c.attempts, c.pinEdge] ++ Machine.be16 c.interval

/-- R163, R180: a PUT from its argument bytes. With a count outside 1..32 it has no sample bytes. -/
def decodePut : List Byte → Option Instr
  | stream :: count :: rest =>
    match parseSamples rest with
    | some l => if putShape count l then some (.put stream count l) else none
    | none => none
  | _ => none

/-- R163, R180: how many argument bytes follow a code byte; for PUT it is not known before its count byte. A code that
names no command is complete at its code byte (R165). -/
def argCount (code : Byte) (args : List Byte) : Option Nat :=
  if code = 0x01 then some 16
  else if code = 0x12 then
    match args with
    | _ :: count :: _ => some (if 1 ≤ count.toNat ∧ count.toNat ≤ 32 then 2 + 2 * count.toNat else 2)
    | _ => none
  else if code = 0x10 then some 8
  else if code = 0x20 then some 5
  else if code = 0x23 then some 3
  else if code ∈ ([0x11, 0x13, 0x21, 0x22, 0x24, 0x25, 0x26, 0x30] : List Byte) then some 1
  else some 0

/-- R180: a command from its code byte and exactly its argument bytes. -/
def decodeArgs (code : Byte) (args : List Byte) : Option Instr :=
  if code = 0x01 then (decodeImage args).map Instr.configure
  else if code = 0x12 then decodePut args
  else
    match args with
    | [] =>
      if code = 0x02 then some .restart
      else if code = 0x03 then some .status
      else if code = 0x04 then some .join
      else if code = 0x05 then some .leave
      else if code = 0x06 then some .mark
      else if code = 0x07 then some .nextNotice
      else if Machine.knownCode code then none
      else some (.unknownCode code)
    | [a] =>
      if code = 0x11 then some (.closePub a)
      else if code = 0x13 then some (.pubStatus a)
      else if code = 0x21 then some (.closeSub a)
      else if code = 0x22 then some (.take a)
      else if code = 0x24 then some (.release a)
      else if code = 0x25 then some (.resume a)
      else if code = 0x26 then some (.subStatus a)
      else if code = 0x30 then some (.roster a)
      else none
    | [a, b, c] => if code = 0x23 then some (.read a b c) else none
    | [a, b, c, d, e] => if code = 0x20 then some (.openSub a b c d e) else none
    | [a, b, c, d, e, f, g1, g0] =>
      if code = 0x10 then some (.openPub a b c d e f (Machine.word16 g1 g0)) else none
    | _ => none

/-- R163, R180: the command a transaction carries, from its code byte on; none while argument bytes are still to come.
The bytes after it are ignored (R163, R165). -/
def decodeCommand : List Byte → Option Instr
  | [] => none
  | code :: args =>
    match argCount code args with
    | some n => if n ≤ args.length then decodeArgs code (args.take n) else none
    | none => none

/-- The bytes of a table word, the least significant first. -/
def wordBytes (nbits w : Nat) : List Byte := (List.range (nbits / 8)).map fun j => BitVec.ofNat 8 (w >>> (8 * j))

/-- The command that a table word spells: its bytes, the least significant first, are the bytes of a transaction from
the code byte on, and every byte after them is 0 (R180, log entry 3). A word of no whole byte spells none. The longest
command has 66 argument bytes. -/
def decodeTableWord (nbits w : Nat) : Option Instr :=
  match wordBytes nbits w with
  | [] => none
  | code :: args => decodeCommand (code :: (args ++ List.replicate 66 0))

/-- R180: the code byte and the argument bytes of a host command; the other steps have no byte form. -/
def encodeCommand : Instr → Option (List Byte)
  | .configure c => some (0x01 :: encodeImage c)
  | .restart => some [0x02]
  | .status => some [0x03]
  | .join => some [0x04]
  | .leave => some [0x05]
  | .mark => some [0x06]
  | .nextNotice => some [0x07]
  | .openPub a b c d e f g => some ([0x10, a, b, c, d, e, f] ++ Machine.be16 g)
  | .closePub a => some [0x11, a]
  | .put a b l => some ([0x12, a, b] ++ l.flatMap Machine.be16)
  | .pubStatus a => some [0x13, a]
  | .openSub a b c d e => some [0x20, a, b, c, d, e]
  | .closeSub a => some [0x21, a]
  | .take a => some [0x22, a]
  | .read a b c => some [0x23, a, b, c]
  | .release a => some [0x24, a]
  | .resume a => some [0x25, a]
  | .subStatus a => some [0x26, a]
  | .roster a => some [0x30, a]
  | .unknownCode c => some [c]
  | _ => none

end Sys2Proof
end

