-- ==== Sys2Proof/Machine/LineEvents.lean ====
section
/-! DEFINITION. The events of the exchange line: LINE_IDLE (R153), the start and the outcomes of the own parcels (R135,
R138 to R143), and receptions (R155, R159 to R161). -/

namespace Sys2Proof.Machine

open Sys2Proof

/-- R153: the tenth consecutive recessive bit, in a state that reads the line and with no parcel of the station on
it. A parcel then being assembled has met six equal bits and is broken (R155, log entry 12). -/
def State.becomesIdle (s : State) : State :=
  if s.line.receives && s.flying.isNone then
    { s with lineIdle := true, assembling := false, bits := { s.bits with recessive := 0, rx := none } }
  else s

/-- R155: a framing error breaks the parcel being received; the count of recessive bits stands as it is. -/
def State.receptionBreaks (s : State) : State :=
  if s.canReceive then { s with lineIdle := false, assembling := false, bits := { s.bits with rx := none } } else s

/-- PARCEL_START (R135, R156). -/
def execParcelStart (s : State) : Result := .next s.startParcel

/-- OUTCOME_SENT (R138). -/
def execOutcomeSent (s : State) : Result := .next s.outcomeSent

/-- OUTCOME_LOST (R139). -/
def execOutcomeLost (s : State) : Result := .next s.outcomeLost

/-- OUTCOME_FAILED (R140). -/
def execOutcomeFailed (s : State) : Result := .next s.outcomeFailed

/-- HELLO_ACCEPTED (R118). -/
def execHelloAccepted (header : Header) (hello : HelloBody) (s : State) : Result :=
  .next (s.receive ⟨header, .hello hello⟩)

/-- MARK_ACCEPTED (R106, R108). -/
def execMarkAccepted (header : Header) (number : MarkNo) (s : State) : Result :=
  .next (s.receive ⟨header, .mark number⟩)

/-- DATA_ACCEPTED (R52). -/
def execDataAccepted (header : Header) (data : DataBody) (s : State) : Result :=
  .next (s.receive ⟨header, .data data⟩)

/-- ASK_ACCEPTED (R84, R86). -/
def execAskAccepted (header : Header) (ask : AskBody) (s : State) : Result := .next (s.receive ⟨header, .ask ask⟩)

/-- GONE_ACCEPTED (R85). -/
def execGoneAccepted (header : Header) (gone : GoneBody) (s : State) : Result :=
  .next (s.receive ⟨header, .gone gone⟩)

/-- BROKEN_PARCEL (R155). -/
def execBrokenParcel (s : State) : Result := .next s.receptionBreaks

/-- DISCARDED_PARCEL (R160): the bytes of a parcel received whole go through the filter. -/
def execDiscardedParcel (bytes : List Byte) (s : State) : Result := .next (s.receiveBytes bytes)

/-- LINE_IDLE (R153). -/
def execLineIdle (s : State) : Result := .next s.becomesIdle

end Sys2Proof.Machine
end

