-- ==== Sys2Proof/Machine/Resets.lean ====
section
/-! DEFINITION. The three kinds of reset and the start cause (R169 to R171, R183). -/

namespace Sys2Proof.Machine

open Sys2Proof

/-- R170: every block at its reset values. What a reset does not touch: the start cause (R169), the reset in
progress and the pin levels, and the model's own fields. -/
def State.resetBlocks (s : State) : State :=
  { State.reset with
    startCause := s.startCause
    firstReset := s.firstReset
    supplyHold := s.supplyHold
    pinHold := s.pinHold
    scsLow := s.scsLow
    freeDraws := s.freeDraws
    pending := s.pending
    wires := s.wires }

/-- R169: the kind of reset that began first stays, one that comes while another holds being part of it. -/
def State.beginReset (s : State) (k : ResetHold) : State :=
  { s.resetBlocks with firstReset := some (s.firstReset.getD k) }

/-- R169, R183: a power-up reset begins, or begins again. -/
def State.supplyReset (s : State) : State := { s.beginReset .supply with supplyHold := true }

/-- R169: a falling edge of RESETN; held low already, it has no edge. -/
def State.resetnFalls (s : State) : State := if s.pinHold then s else { s.beginReset .pin with pinHold := true }

/-- R169: the start cause a reset leaves, by the kind that began first. -/
def causeOf : ResetHold → StartCause
  | .supply => .power
  | .pin => .pin

/-- R169: the part comes out of reset: the start cause is recorded. -/
def State.endReset (s : State) (k : ResetHold) : State :=
  { s.resetBlocks with startCause := causeOf k, firstReset := none, supplyHold := false, pinHold := false }

/-- R169: the supply has become stable. With RESETN low the part stays in reset, and the reset that ends later is
still the power-up if that began first. -/
def State.supplyStable (s : State) : State :=
  if s.supplyHold then
    if s.pinHold then { s with supplyHold := false } else s.endReset (s.firstReset.getD .supply)
  else s

/-- R169: RESETN rises. With the supply not yet stable the part stays in reset by the power-up alone (log
entry 10). -/
def State.resetnRises (s : State) : State :=
  if s.pinHold then
    if s.supplyHold then { s with pinHold := false, firstReset := some .supply }
    else s.endReset (s.firstReset.getD .pin)
  else s

/-- R171: RESTART taken: the reset takes place with the start cause COMMAND, and the transaction that carried it
goes on to shift out OK. -/
def State.restartCommand (s : State) : State :=
  { s.resetBlocks with startCause := .command }.respond (.ok [])

/-- RESTART (R171), allowed in every state. -/
def execRestart (s : State) : Result := .next (if s.collecting then s.restartCommand else s)

/-- POWER_UP (R169): a rising supply begins a power-up reset. -/
def execPowerUp (s : State) : Result := .next s.supplyReset

/-- SUPPLY_DROP (R183): VDD below 2.6 V begins the power-up reset again. -/
def execSupplyDrop (s : State) : Result := .next s.supplyReset

/-- RESETN_LOW (R169): a falling edge of RESETN begins a reset. -/
def execResetnLow (s : State) : Result := .next s.resetnFalls

/-- RESET_END (R169): the supply becomes stable, or RESETN rises. -/
def execResetEnd (hold : ResetHold) (s : State) : Result :=
  .next
    (match hold with
    | .supply => s.supplyStable
    | .pin => s.resetnRises)

end Sys2Proof.Machine
end

