-- ==== Sys2Proof/Machine/SampleEvents.lean ====
section
/-! DEFINITION. The events of the sample port and of the MARKIN pin: FRAME_START and FRAME_ARRIVAL (R33 to R38),
MARKIN_EDGE (R101). -/

namespace Sys2Proof.Machine

open Sys2Proof

/-- R33, R34, R183: a falling edge of FSYNC, which now reads low. While configured it starts a frame and discards one in
progress with its bits; while unconfigured it starts nothing. -/
def State.fsyncFalls (s : State) : State :=
  if s.configured then { s with fsyncHigh := false, frameInProgress := true, frameBits := [] }
  else { s with fsyncHigh := false }

/-- R33, R38: the 128th bit of a frame. Bits that no FSYNC fall started a frame for are ignored. -/
def State.frameCompletes (s : State) (bits : BitVec 128) : State :=
  if s.configured = true ∧ s.frameInProgress = true then ({ s with frameInProgress := false, frameBits := [] }).frame bits
  else s

/-- R101: an edge on MARKIN. -/
def State.markinEdge (s : State) (e : Edge) : State :=
  match s.config with
  | some c => if s.line = .active ∧ c.edgeMatches e = true then s.trigger else s
  | none => s

/-- FRAME_START (R33, R34). -/
def execFrameStart (s : State) : Result := .next s.fsyncFalls

/-- FRAME_ARRIVAL (R35, R38). -/
def execFrameArrival (bits : BitVec 128) (s : State) : Result := .next (s.frameCompletes bits)

/-- MARKIN_EDGE (R101). -/
def execMarkinEdge (edge : Edge) (s : State) : Result := .next (s.markinEdge edge)

end Sys2Proof.Machine
end

