-- ==== Sys2Proof/Machine/SubCommands.lean ====
section
/-! DEFINITION. The host commands of the subscription engine: OPEN_SUB (R47, R48), CLOSE_SUB (R49), TAKE (R57), READ
(R58), RELEASE (R59), RESUME (R66) and SUB_STATUS (R61). -/

namespace Sys2Proof.Machine

open Sys2Proof

/-! ### OPEN_SUB -/

/-- R47, check 1: the arguments of OPEN_SUB; absent is BAD_ARG. -/
def State.openSubArgs (s : State) (origin stream size policy start : Byte) :
    Option (Addr × StreamNo × GapPolicy × SubStart) :=
  match streamOf stream, policyOf policy, subStartOf start with
  | some n, some pol, some st =>
    if isAddress origin = true ∧ addrOf origin ≠ s.ownAddr ∧ 2 ≤ size.toNat ∧ size.toNat ≤ 32 then
      some (addrOf origin, n, pol, st)
    else none
  | _, _, _ => none

/-- R48: the lowest handle not in use. -/
def State.lowestHandle (s : State) : Option SubHandle := allHandles.find? fun h => !s.handleInUse h

/-- R48: the record an open creates. -/
def newSub (a : Addr) (n : StreamNo) (pol : GapPolicy) (st : SubStart) (handles : List Nat) : Sub where
  origin := a
  stream := n
  slots := handles.map fun x => ⟨x, .free⟩
  policy := pol
  start := st
  state := .waiting
  point := none
  p := 0
  b := 0
  h := -1
  repair := ⟨.idle, 0, .stopped⟩
  delivered := 0
  lost := 0
  discarded := 0

/-- R48: the effects of an OPEN_SUB that passes every check. -/
def State.openSub (s : State) (h : SubHandle) (a : Addr) (n : StreamNo) (size : Nat) (pol : GapPolicy) (st : SubStart) :
    State :=
  let t := { s with freeSlots := s.freeSlots.drop size }
  let u := t.setSub h (some (newSub a n pol st (s.freeSlots.take size)))
  match (s.peer a).advertOf n with
  | some x => u.event h fun v => v.advertised h x
  | none => u

/-- R47, R48: OPEN_SUB. -/
def State.openSubCommand (origin stream size policy start : Byte) (s : State) : State × Response :=
  match s.openSubArgs origin stream size policy start with
  | some (a, n, pol, st) =>
    if (s.subOf a n).isSome then (s, .refuse .duplicate)
    else
      match s.lowestHandle with
      | some h =>
        if s.freeCount < size.toNat then (s, .refuse .noRoom)
        else (s.openSub h a n size.toNat pol st, .ok [byteOf h.val])
      | none => (s, .refuse .noRoom)
  | none => (s, .refuse .badArg)

/-! ### Commands that name a subscription handle -/

/-- R49, R57, R61, R66: BAD_ARG for a handle outside 0..31, NO_SUCH where no subscription is open on it. -/
def State.onHandle (s : State) (handle : Byte) (f : SubHandle → Sub → State × Response) : State × Response :=
  match handleOf handle with
  | some h =>
    match s.sub h with
    | some w => f h w
    | none => (s, .refuse .noSuch)
  | none => (s, .refuse .badArg)

/-- R49: the effects of a close. -/
def State.closeSub (s : State) (h : SubHandle) (w : Sub) : State :=
  let t := s.withdrawAsk h
  { t.setSub h none with freeSlots := returnSlots w.handles s.freeSlots }

/-- R49: CLOSE_SUB. -/
def State.closeSubCommand (handle : Byte) (s : State) : State × Response :=
  s.onHandle handle fun h w => (s.closeSub h w, .ok [])

/-- R57: TAKE. -/
def State.takeCommand (handle : Byte) (s : State) : State × Response :=
  s.onHandle handle fun h w =>
    match w.oldestWaiting with
    | some (i, r) => (s.setSub h (some (w.put i (.taken r))), .ok (takeHeader (w.handleAt i) r))
    | none => (s, .refuse .empty)

/-- R66: RESUME. In STALLED the SKIP step is done once, the state becomes RUNNING and the machine is told. -/
def State.resumeCommand (handle : Byte) (s : State) : State × Response :=
  s.onHandle handle fun h w =>
    if w.state = .stalled then
      (s.event h fun t =>
        ((t.giveUp h false).modSub h fun v => { v with state := .running }).toldResumed h, .ok [])
    else (s, .refuse .state)

/-- R61: SUB_STATUS. -/
def State.subStatusCommand (handle : Byte) (s : State) : State × Response :=
  s.onHandle handle fun _ w => (s, .ok w.statusBytes)

/-! ### Commands that name a slot handle -/

/-- The record of an owned slot (R5, R58). -/
def State.ownedRecord (s : State) (slot : Byte) : Option Record :=
  match s.owned slot with
  | some (h, i) =>
    match s.sub h with
    | some w => (w.at i).record
    | none => none
  | none => none

/-- R58: READ. -/
def State.readCommand (slot first count : Byte) (s : State) : State × Response :=
  if first.toNat ≤ 31 ∧ 1 ≤ count.toNat ∧ count.toNat ≤ 32 then
    match s.ownedRecord slot with
    | some r =>
      if first.toNat + count.toNat ≤ r.samples.length then
        (s, .ok (((r.samples.drop first.toNat).take count.toNat).flatMap be16))
      else (s, .refuse .badArg)
    | none => (s, .refuse .notOwned)
  else (s, .refuse .badArg)

/-- R59: RELEASE. -/
def State.releaseCommand (slot : Byte) (s : State) : State × Response :=
  match s.owned slot with
  | some (h, i) => (s.modSub h fun w => w.releaseAt i, .ok [])
  | none => (s, .refuse .notOwned)

/-! ### Meanings -/

/-- OPEN_SUB (R47, R48). -/
def execOpenSub (origin stream size policy start : Byte) (s : State) : Result :=
  .next (s.command (State.openSubCommand origin stream size policy start))

/-- CLOSE_SUB (R49). -/
def execCloseSub (handle : Byte) (s : State) : Result := .next (s.command (State.closeSubCommand handle))

/-- TAKE (R57). -/
def execTake (handle : Byte) (s : State) : Result := .next (s.command (State.takeCommand handle))

/-- READ (R58). -/
def execRead (slot first count : Byte) (s : State) : Result := .next (s.command (State.readCommand slot first count))

/-- RELEASE (R59). -/
def execRelease (slot : Byte) (s : State) : Result := .next (s.command (State.releaseCommand slot))

/-- RESUME (R66). -/
def execResume (handle : Byte) (s : State) : Result := .next (s.command (State.resumeCommand handle))

/-- SUB_STATUS (R61). -/
def execSubStatus (handle : Byte) (s : State) : Result := .next (s.command (State.subStatusCommand handle))

end Sys2Proof.Machine
end

