-- ==== Sys2Proof/Machine/TimerEvents.lean ====
section
/-! DEFINITION. The expiries of the station's timers: ask delay and answer wait (R76, R79), mark interval (R102),
presence (R123), silence (R122) and listen span (R148). A stopped timer does not expire: the step then changes
nothing. -/

namespace Sys2Proof.Machine

open Sys2Proof

/-- The timer runs. -/
def Timer.isRunning : Timer → Bool
  | .running _ => true
  | .stopped => false

/-- R102: the interval timer expires as a trigger and restarts. -/
def State.intervalExpires (s : State) : State :=
  if s.intervalTimer.isRunning then { s.trigger with intervalTimer := s.intervalStart } else s

/-- R123: the presence timer expires: a presence HELLO is admitted unless a HELLO is in the list, and the timer
restarts. -/
def State.presenceExpires (s : State) : State :=
  if s.presenceTimer.isRunning then { s.addOffer (.hello .presence) with presenceTimer := s.presenceStart } else s

/-- R148: the listen span expires in LISTENING: the join HELLO is admitted. -/
def State.listenExpires (s : State) : State :=
  if s.line = .listening ∧ s.listenTimer.isRunning = true then
    ({ s with listenTimer := .stopped }).addOffer (.hello .join)
  else s

/-- ASK_DELAY_EXPIRY (R76). -/
def execAskDelayExpiry (handle : SubHandle) (s : State) : Result := .next (s.askDelayExpires handle)

/-- ANSWER_WAIT_EXPIRY (R79). -/
def execAnswerWaitExpiry (handle : SubHandle) (s : State) : Result := .next (s.answerWaitExpires handle)

/-- INTERVAL_TIMER_EXPIRY (R102). -/
def execIntervalTimerExpiry (s : State) : Result := .next s.intervalExpires

/-- PRESENCE_TIMER_EXPIRY (R123). -/
def execPresenceTimerExpiry (s : State) : Result := .next s.presenceExpires

/-- SILENCE_TIMER_SILENT (R122). -/
def execSilenceTimerSilent (address : Addr) (s : State) : Result := .next (s.silenceSilent address)

/-- SILENCE_TIMER_GONE (R122). -/
def execSilenceTimerGone (address : Addr) (s : State) : Result := .next (s.silenceGone address)

/-- LISTEN_SPAN_EXPIRY (R148). -/
def execListenSpanExpiry (s : State) : Result := .next s.listenExpires

end Sys2Proof.Machine
end

