-- ==== Sys2Proof/Machine/Dispatch.lean ====
section
/-! DEFINITION. One arm for each row of spec/opcode_table.json: a direct call of its meaning. -/

namespace Sys2Proof.Machine

open Sys2Proof

/-- The effect of a step on everything but the queue. -/
def exec (i : Instr) (s : State) : Host.Outcome State Fault Refusal :=
  match i with
  | .configure image => Sys2Proof.Machine.execConfigure image s
  | .restart => Sys2Proof.Machine.execRestart s
  | .status => Sys2Proof.Machine.execStatus s
  | .join => Sys2Proof.Machine.execJoin s
  | .leave => Sys2Proof.Machine.execLeave s
  | .mark => Sys2Proof.Machine.execMark s
  | .nextNotice => Sys2Proof.Machine.execNextNotice s
  | .openPub stream source size start mask k d => Sys2Proof.Machine.execOpenPub stream source size start mask k d s
  | .closePub stream => Sys2Proof.Machine.execClosePub stream s
  | .put stream count samples => Sys2Proof.Machine.execPut stream count samples s
  | .pubStatus stream => Sys2Proof.Machine.execPubStatus stream s
  | .openSub origin stream size policy start => Sys2Proof.Machine.execOpenSub origin stream size policy start s
  | .closeSub handle => Sys2Proof.Machine.execCloseSub handle s
  | .take handle => Sys2Proof.Machine.execTake handle s
  | .read slot first count => Sys2Proof.Machine.execRead slot first count s
  | .release slot => Sys2Proof.Machine.execRelease slot s
  | .resume handle => Sys2Proof.Machine.execResume handle s
  | .subStatus handle => Sys2Proof.Machine.execSubStatus handle s
  | .roster address => Sys2Proof.Machine.execRoster address s
  | .unknownCode code => Sys2Proof.Machine.execUnknownCode code s
  | .transactionStart => Sys2Proof.Machine.execTransactionStart s
  | .transactionCut => Sys2Proof.Machine.execTransactionCut s
  | .powerUp => Sys2Proof.Machine.execPowerUp s
  | .resetnLow => Sys2Proof.Machine.execResetnLow s
  | .resetEnd hold => Sys2Proof.Machine.execResetEnd hold s
  | .frameStart => Sys2Proof.Machine.execFrameStart s
  | .frameArrival bits => Sys2Proof.Machine.execFrameArrival bits s
  | .markinEdge edge => Sys2Proof.Machine.execMarkinEdge edge s
  | .askDelayExpiry handle => Sys2Proof.Machine.execAskDelayExpiry handle s
  | .answerWaitExpiry handle => Sys2Proof.Machine.execAnswerWaitExpiry handle s
  | .intervalTimerExpiry => Sys2Proof.Machine.execIntervalTimerExpiry s
  | .presenceTimerExpiry => Sys2Proof.Machine.execPresenceTimerExpiry s
  | .silenceTimerSilent address => Sys2Proof.Machine.execSilenceTimerSilent address s
  | .silenceTimerGone address => Sys2Proof.Machine.execSilenceTimerGone address s
  | .listenSpanExpiry => Sys2Proof.Machine.execListenSpanExpiry s
  | .parcelStart => Sys2Proof.Machine.execParcelStart s
  | .outcomeSent => Sys2Proof.Machine.execOutcomeSent s
  | .outcomeLost => Sys2Proof.Machine.execOutcomeLost s
  | .outcomeFailed => Sys2Proof.Machine.execOutcomeFailed s
  | .helloAccepted header hello => Sys2Proof.Machine.execHelloAccepted header hello s
  | .markAccepted header number => Sys2Proof.Machine.execMarkAccepted header number s
  | .dataAccepted header data => Sys2Proof.Machine.execDataAccepted header data s
  | .askAccepted header ask => Sys2Proof.Machine.execAskAccepted header ask s
  | .goneAccepted header gone => Sys2Proof.Machine.execGoneAccepted header gone s
  | .brokenParcel => Sys2Proof.Machine.execBrokenParcel s
  | .discardedParcel bytes => Sys2Proof.Machine.execDiscardedParcel bytes s
  | .lineIdle => Sys2Proof.Machine.execLineIdle s
  | .supplyDrop => Sys2Proof.Machine.execSupplyDrop s
  | .lastResponseByte => Sys2Proof.Machine.execLastResponseByte s

end Sys2Proof.Machine
end

