-- ==== Sys2Proof/Machine/Wires.lean ====
section
/-! DEFINITION. What happens at the wires of the part below the rows of the table: the edges of SCS and SCK that make
the bytes of a transaction (R162 to R166), the edges of FCLK that make a frame (R33, R34), and the bit times of the
exchange line that make the idle condition, the own parcels with their outcomes, and the receptions (R153, R156 to
R159). Each ends in the meaning of the row it makes. -/

namespace Sys2Proof.Machine

open Sys2Proof

/-! ### The host port (R162 to R166) -/

/-- R165: the configured flag allows a known code. -/
def State.allowsCode (s : State) (code : Byte) : Bool :=
  if s.configured then decide (code ≠ 0x01) else decide (code ∈ ([0x01, 0x02, 0x03] : List Byte))

/-- R163, R165: a command byte is complete, `bytes` being those of the transaction so far. A known code that is not
allowed is answered STATE at once. A command whose last byte this is, or a code that names none, is taken; else the port
goes on collecting. -/
def takeBytes (s : State) (bytes : List Byte) : Result :=
  let t := { s with spi := Spi.reset }
  let code := bytes.headD 0
  if knownCode code = true ∧ s.allowsCode code = false then .next (t.respond (.refuse .state))
  else
    match decodeCommand bytes with
    | some c => exec c t
    | none => .next { s with spi := { s.spi with bits := [], bytes := bytes } }

/-- R162: a rising edge of SCK. While the port collects, SDI is sampled, most significant bit first, and the eighth bit
completes a byte. While it responds, the eighth edge of the last response byte has shifted the response out (log
entry 21). In IDLE and DONE, and while SCS is high, the edge is ignored. -/
def sckRises (s : State) (sdi : Bool) : Result :=
  if s.scsLow then
    if s.collecting then
      let bits := s.spi.bits ++ [sdi]
      if bits.length < 8 then .next { s with spi := { s.spi with bits := bits } }
      else takeBytes s (s.spi.bytes ++ [bitsByte bits])
    else
      match s.txn with
      | .responding bs => if 8 * bs.length ≤ s.spi.out then exec .lastResponseByte s else .next s
      | _ => .next s
  else .next s

/-- R162, R164: the bit that the next falling edge of SCK presents: while the port responds the next bit of the
response, most significant first; else 0. -/
def State.nextBit (s : State) : Bool :=
  match s.txn with
  | .responding bs => (bytesBits bs).getD s.spi.out false
  | _ => false

/-- R162: a falling edge of SCK changes SDO. -/
def State.sckFalls (s : State) : State :=
  if s.scsLow = true ∧ s.txn ≠ .idle then
    { s with
      spi :=
        { s.spi with
          level := s.nextBit
          out := match s.txn with
            | .responding bs => min (8 * bs.length) (s.spi.out + 1)
            | _ => s.spi.out } }
  else s

/-- R162: the level of SDO; none while it is released. The first bit of a transaction is presented when SCS falls. -/
def State.sdoLevel (s : State) : Option Bool := if s.scsLow = true ∧ s.txn ≠ .idle then some s.spi.level else none

/-! ### The sample port (R33, R34, R183) -/

/-- R33: one more bit, sampled after those before it. -/
def shiftIn (v : BitVec 128) (b : Bool) : BitVec 128 := v <<< 1 ||| (BitVec.ofBool b).setWidth 128

/-- R33: the 128 bits of a frame, the first one sampled the most significant. -/
def frameOf (bits : List Bool) : BitVec 128 := bits.foldl shiftIn 0

/-- R33: a rising edge of FCLK that samples one bit of the frame in progress; the 128th makes the frame arrive. With no
frame in progress the bit is ignored. -/
def State.frameBit (s : State) (x : Bool) : Result :=
  if s.frameInProgress then
    let bits := s.frameBits ++ [x]
    if bits.length < 128 then .next { s with frameBits := bits } else exec (.frameArrival (frameOf bits)) s
  else .next s

/-- R33, R34, R183: a rising edge of FCLK with the levels of FSYNC and FDAT. The fall of FSYNC is seen at the edge that
first reads it low after high: it starts a frame, whose first bit is the one of the next edge, and discards one in
progress. Every other edge samples FDAT. A part in reset takes nothing in (R170). -/
def fclkRises (s : State) (fsync fdat : Bool) : Result :=
  if s.inReset then .next s
  else if s.fsyncHigh = true ∧ fsync = false then exec .frameStart s
  else ({ s with fsyncHigh := fsync } : State).frameBit fdat

/-! ### The exchange line (R153, R156 to R159) -/

/-- R153, R159: one bit read by the receiving side, and what it makes of the parcel being assembled. The count of
recessive bits waits below 10 while a parcel is on the line (log entry 22). -/
def LineBits.read (b : LineBits) (x : Bool) : LineBits × Assembly :=
  let n := if x then min 9 (b.recessive + 1) else 0
  match b.rx with
  | some r =>
    match r.step x with
    | (v, .unfinished) => ({ b with recessive := n, rx := some v }, .unfinished)
    | (_, a) => ({ b with recessive := n, rx := none }, a)
  | none => ({ b with recessive := n }, .unfinished)

/-- R155, R159: a parcel being assembled has ended, or not. -/
def State.assembled (s : State) (a : Assembly) : State :=
  match a with
  | .unfinished => s
  | .broken => s.receptionBreaks
  | .received bytes => s.receiveBytes bytes

/-- R153, R155, R159: a station that reads the line, with no parcel of its own on it, reads one bit. On an idle line a
dominant bit is the start bit of a parcel. Within a parcel the receiving side goes on. Else it waits for the tenth
consecutive recessive bit. -/
def State.readBit (s : State) (x : Bool) : State :=
  if s.lineIdle then
    if x then s
    else { s with lineIdle := false, assembling := true, bits := { s.bits with recessive := 0, rx := some Rx.start } }
  else
    match s.assembling, s.bits.rx with
    | true, some _ =>
      let (b, a) := s.bits.read x
      { s with bits := b }.assembled a
    | _, _ =>
      if x = true ∧ 9 ≤ s.bits.recessive then s.becomesIdle
      else { s with bits := (LineBits.read { s.bits with rx := none } x).1 }

/-- R154, R157: the bits that an entry in flight drives, from the start bit to the end field. -/
def Offer.lineBits (o : Offer) : List Bool :=
  match o.flight with
  | some p => p.lineBits
  | none => []

/-- R145, R157, R158: the level on LTX in this bit time: the next bit of the own parcel, else recessive. -/
def State.ltx (s : State) : Bool :=
  match s.flying with
  | some o => o.lineBits.getD s.bits.driven true
  | none => true

/-- R137, R157: the bit being driven lies in byte 0 or byte 1. -/
def Offer.contends (o : Offer) (driven : Nat) : Bool :=
  match o.flight with
  | some p => decide (1 ≤ driven ∧ driven ≤ contentionBits p.header.bytes)
  | none => false

/-- R153, R158, R159: the receiving side reads along while the own parcel is driven; its start bit begins an assembly.
One that reads nothing counts nothing. -/
def State.readAlong (s : State) (x : Bool) : State × Assembly :=
  if s.bits.driven = 0 ∧ x = false ∧ s.mayAssemble = true then
    ({ s with bits := { s.bits with recessive := 0, rx := some Rx.start } }, .unfinished)
  else if s.line.receives then
    let (b, a) := s.bits.read x
    ({ s with bits := b }, a)
  else (s, .unfinished)

/-- R137, R157: one bit of the own parcel is driven and read back. The first mismatch decides: LOST for a recessive bit
read dominant within byte 0 or byte 1, else FAILED; the receiving side goes on with the bits as it read them. With no
mismatch the last bit of the end field is SENT. A start bit read recessive leaves the line idle, as no dominant bit was
read (R153). -/
def State.driveBit (s : State) (o : Offer) (x : Bool) : State :=
  let d := s.ltx
  let (t, a) := s.readAlong x
  if x = d then
    let u := { t with bits := { t.bits with driven := s.bits.driven + 1 } }
    if o.lineBits.length ≤ s.bits.driven + 1 then u.outcomeSent else u
  else if d = true ∧ o.contends s.bits.driven = true then t.outcomeLost.assembled a
  else if s.bits.driven = 0 ∧ s.mayAssemble = true then t.outcomeFailed.becomesIdle
  else t.outcomeFailed.assembled a

/-- R153, R156, R157: one bit time, in which the level `lrx` is read at LRX. A parcel whose conditions for a start hold
drives its start bit in it (log entry 21). -/
def State.bitTime (s : State) (lrx : Bool) : State :=
  let t := s.startParcel
  match t.flying with
  | some o => t.driveBit o lrx
  | none => if t.line.receives then t.readBit lrx else t

/-- What happens at the wires. -/
def tick (w : Wire) (s : State) : Result :=
  match w with
  | .scsFall => exec .transactionStart s
  | .scsRise => exec .transactionCut s
  | .sckRise sdi => sckRises s sdi
  | .sckFall => .next s.sckFalls
  | .fclkRise fsync fdat => fclkRises s fsync fdat
  | .bitTime lrx => .next (s.bitTime lrx)

end Sys2Proof.Machine
end

