-- ==== Sys2Proof/Machine/Step.lean ====
section
/-! DEFINITION. One step: the command at the front of the queue runs; with none waiting, what comes next at the wires
happens; with neither, the block idles. -/

namespace Sys2Proof.Machine

open Sys2Proof

/-- Takes the command at the front of the queue and runs it with the queue's rest. On an empty queue the first of what
happens at the wires takes place, and with none of that either nothing happens (log entry 2). -/
def step (s : State) : Host.Outcome State Fault Refusal :=
  match s.pending with
  | c :: rest => exec c { s with pending := rest }
  | [] =>
    match s.wires with
    | w :: rest => tick w { s with wires := rest }
    | [] => .next s

/-- The command that a table word spells, put at the front of the queue; the state unchanged where it spells
none (log entry 3). -/
def State.withFetchWord (s : State) (nbits w : Nat) : State :=
  match decodeTableWord nbits w with
  | some c => { s with pending := c :: s.pending }
  | none => s

end Sys2Proof.Machine
end

