-- ==== Sys2Proof/Safety.lean ====
section
/-! DEFINITION. What a sound state of the ND416 is, rule by rule: the laws the manual says hold after every event. They
are the invariants that claims about all steps are stated with. `Sound` puts them together. -/

namespace Sys2Proof.Machine

open Sys2Proof

/-! ### Notices (R173, R175) -/

/-- R173, R175: at most 32 entries, no two of the same kind and object, counts 1..255, NOTICE_OVERFLOW only in the last
place and without an object, and in the 32nd place nothing else. -/
abbrev NoticesOk (q : List Notice) : Prop :=
  q.length ≤ 32
    ∧ q.Pairwise (fun a b => ¬(a.kind = b.kind ∧ a.object = b.object))
    ∧ (∀ n ∈ q, 1 ≤ n.count ∧ n.count ≤ 255)
    ∧ (∀ n ∈ q, n.kind = .noticeOverflow → n.object = .none)
    ∧ (∀ n ∈ q.dropLast, n.kind ≠ .noticeOverflow)
    ∧ (q.length = 32 → overflowInForce q = true)

/-! ### Slots (R5, R6, R8) -/

/-- The handles of the slots lent to a stream number's publication (R5). -/
def StreamRec.lent (r : StreamRec) : List Nat :=
  match r.pub with
  | some p => p.handles
  | none => []

/-- The handles of the slots lent to a subscription (R5). -/
def lentToSub (w : Option Sub) : List Nat :=
  match w with
  | some w => w.handles
  | none => []

/-- R5: the handles of all lent slots. -/
def State.lent (s : State) : List Nat := s.streams.toList.flatMap StreamRec.lent ++ s.subs.toList.flatMap lentToSub

/-- R8: the free count, plus the window sizes, plus the retention sizes. -/
def State.slotTotal (s : State) : Nat :=
  s.freeCount + (s.subs.toList.map fun w => (lentToSub w).length).sum
    + (s.streams.toList.map fun r => r.lent.length).sum

/-- R5, R6: every slot 0..255 is either in the free list, which ascends, or lent at one place of one ring or window. -/
abbrev SlotsOk (s : State) : Prop :=
  s.freeSlots.Pairwise (· < ·) ∧ (s.freeSlots ++ s.lent).Perm (List.range 256)

/-! ### Configuration (R145, R168, R170) -/

/-- R168, R170, R172: while the part is unconfigured every block stands as a reset leaves it, but for the bits of the
host port and the level of FSYNC as last read; once configured the image is in range and the line state is not
UNCONFIGURED. -/
abbrev ConfigOk (s : State) : Prop :=
  (s.config = none → s = { s.resetBlocks with txn := s.txn, spi := s.spi, fsyncHigh := s.fsyncHigh })
    ∧ (∀ c ∈ s.config, c.inRange = true ∧ s.line ≠ .unconfigured)

/-! ### The offer list and its owners (spec/08) -/

/-- R134: the entries that may wait in the list, not in flight, in a line state. -/
def LineState.mayWait (l : LineState) (i : OfferItem) : Bool :=
  match l with
  | .active => decide (i ≠ .hello .join ∧ i ≠ .hello .departure)
  | .listening => decide (i = .hello .join)
  | .departing => decide (i = .hello .departure)
  | _ => false

/-- R130, R131, R140, R141: one entry for each resource, at most one in flight, fewer than four failures, and none for
the join HELLO. -/
abbrev ListOk (s : State) : Prop :=
  s.offers.Pairwise (fun a b => a.item.sameResource b.item = false)
    ∧ s.offers.countP Offer.inFlight ≤ 1
    ∧ (∀ o ∈ s.offers, o.failures ≤ 3)
    ∧ (∀ o ∈ s.offers, o.item = .hello .join → o.failures = 0)

/-- R134: outside the one entry in flight, only the entries of the line state wait. -/
abbrev WaitOk (s : State) : Prop := ∀ o ∈ s.offers, o.inFlight = false → s.line.mayWait o.item = true

/-- R99, R103: a MARK entry is in the list exactly while P is set, and a MARK in flight carries M + 1. -/
abbrev MarkOfferOk (s : State) : Prop :=
  (s.markPending = true ↔ s.hasOffer .mark = true)
    ∧ (∀ o ∈ s.offers, o.item = .mark → o.inFlight = true → o.markCarried = s.markNo + 1)

/-- R90, R93: a pending GONE range has its entry, and an entry not in flight has its range. -/
abbrev GoneOfferOk (s : State) : Prop :=
  ∀ n : StreamNo,
    ((s.stream n).gone.isSome = true → s.hasOffer (.gone n) = true)
      ∧ (∀ o ∈ s.offers, o.item = .gone n → o.inFlight = false → (s.stream n).gone.isSome = true)

/-- R90, R93: a GONE range is pending only while the line is ACTIVE. -/
abbrev GoneLineOk (s : State) : Prop := ∀ n : StreamNo, (s.stream n).gone.isSome = true → s.line = .active

/-- The state of a ring position of a stream number, EMPTY where there is none (R131). -/
def State.posOf (s : State) (n : StreamNo) (i : Nat) : PosState :=
  match s.pub n with
  | some p => p.posAt i
  | none => .empty

/-- R18: a DATA-fresh entry references a QUEUED position and a DATA-resend entry one in RESEND. -/
def State.refers (s : State) (x : OfferItem) : Bool :=
  match x with
  | .fresh n i => (s.posOf n i).isQueued
  | .resend n i => (s.posOf n i).isResend
  | _ => true

/-- R18: a position is QUEUED or RESEND exactly when an entry in the list references it. -/
abbrev PositionsOk (s : State) : Prop :=
  (∀ o ∈ s.offers, s.refers o.item = true)
    ∧ (∀ n : StreamNo, ∀ p ∈ s.pub n, ∀ i ∈ List.range p.size,
        (p.posAt i).offered = true → s.hasOffer (.fresh n i) = true)

/-! ### Publications (R11, R16, R18, R19, R37) -/

/-- R19: the sequence at distance `j` before L stands at position (head - j) mod R, for every retained one, with the
origin, stream and generation of the publication. -/
def Pub.runOk (p : Pub) (own : Addr) (n : StreamNo) : Bool :=
  match p.head with
  | some t =>
    decide (t.pos < p.size) && decide (1 ≤ p.retained) &&
      (List.range p.retained).all fun j =>
        match (p.posAt (p.posBefore t j)).record with
        | some r => decide (r.origin = own ∧ r.stream = n ∧ r.gen = p.gen ∧ r.seq = t.last - word16Of j)
        | none => false
  | none => decide (p.retained = 0)

/-- R37: a builder's fields lie in their ranges: the phase below d, fewer than k frames collected, the samples those of
the frames collected, and stamps exactly while a frame is collected. -/
def Pub.builderOk (p : Pub) (b : Builder) : Bool :=
  decide (b.phase < p.d) && decide (b.collected < p.k)
    && decide (b.samples.length = channelCount p.mask * b.collected)
    && (b.stamps.isSome == decide (1 ≤ b.collected))

/-- R12: the arguments of the open lie in their ranges. -/
def Pub.argsOk (p : Pub) : Bool :=
  decide (2 ≤ p.size ∧ p.size ≤ 16)
    && match p.source with
      | .capture =>
        decide (p.mask ≠ 0 ∧ 1 ≤ p.k ∧ p.k ≤ 32 ∧ 1 ≤ p.d ∧ p.d ≤ 256 ∧ channelCount p.mask * p.k ≤ 32)
      | .host => decide (p.mask = 0)

/-- R3, R11, R12, R16, R18, R19, R37: a publication record: arguments in range, a consistent record in every retained
position, one unbroken run that ends at L, a builder exactly for a capture publication that is not CLOSING. -/
def Pub.ok (p : Pub) (own : Addr) (n : StreamNo) : Bool :=
  p.argsOk && p.runOk own n
    && (if p.state = .armed then p.head.isNone else true)
    && (p.ring.all fun x =>
        match x.state.record with
        | some r => !r.resent && !r.lost && (dataBodyOf r false).consistent
        | none => true)
    && (match p.builder with
      | some b => decide (p.source = .capture ∧ p.state ≠ .closing) && p.builderOk b
          && (if p.state = .armed then b == Builder.empty else true)
      | none => decide (p.source = .host ∨ p.state = .closing))

/-- The publication records of the sixteen stream numbers are sound. -/
abbrev RingsOk (s : State) : Prop := ∀ n : StreamNo, ∀ p ∈ s.pub n, p.ok s.ownAddr n = true

/-- R16, R17: a CLOSING publication has its parcel in flight. -/
abbrev ClosingOk (s : State) : Prop :=
  ∀ n : StreamNo, ∀ p ∈ s.pub n, p.state = .closing → s.dataInFlight n = true

/-! ### Subscriptions (R45, R50, R51) -/

/-- R51: the distance from N to the sequence that belongs at a position: 0 at p. -/
def Sub.deltaAt (w : Sub) (i : Nat) : Nat := (i + w.size - w.p) % w.size

/-- R51: the position lies in the ahead run. -/
def Sub.isAhead (w : Sub) (i : Nat) : Bool := decide (w.deltaAt i < w.size - w.b)

/-- R50, R51, items 1 to 3: an ahead slot is FREE, or, not at p, HELD with the record of G and of its distance from N; a
behind slot is not HELD. -/
def Sub.slotOk (w : Sub) (i : Nat) : Bool :=
  if w.isAhead i then
    match w.at i with
    | .free => true
    | .held r =>
      match w.point with
      | some q =>
        decide (1 ≤ w.deltaAt i ∧ r.gen = q.gen ∧ r.seq = q.next + word16Of (w.deltaAt i) ∧ r.origin = w.origin
          ∧ r.stream = w.stream)
      | none => false
    | _ => false
  else !(w.at i).isHeld

/-- R51, item 5, which the STALL policy's not-listed signal breaks (R68, log entry 7): h reaches every HELD slot. -/
def Sub.horizonOk (w : Sub) : Bool :=
  (List.range w.size).all fun i => !(w.at i).isHeld || decide ((w.deltaAt i : Int) ≤ w.h)

/-- R45, R51: the window invariant. Item 4 leaves out the ORPHANED subscription of the STALL policy, whose HELD slots
R70 keeps (log entry 7). -/
def Sub.windowOk (w : Sub) : Bool :=
  decide (2 ≤ w.size ∧ w.size ≤ 32) && decide (w.p < w.size) && decide (w.b ≤ w.size)
    && decide (-1 ≤ w.h ∧ w.h ≤ 32767)
    && ((List.range w.size).all w.slotOk)
    && (decide (w.b = 0) || !(w.at w.tail).isFree)
    && (decide (w.policy = .stall) || w.horizonOk)
    && (match w.state with
      | .waiting => w.point.isNone
      | .orphaned => true
      | _ => w.point.isSome)
    && (w.point.isSome || decide (w.h = -1))
    && (if w.state = .orphaned ∧ w.policy ≠ .stall then w.slots.all fun x => !x.state.isHeld else true)
    && (if w.state = .stalled then decide (w.policy = .stall) else true)

/-- R73, R74, R81, R83, section 5.1: a repair machine: the timer of its state, DELAY, ASKING and ANSWER only while the
line is ACTIVE, HALTED exactly while STALLED, never ASKING without a hole and room (R77), attempts 0..7 and below the
configured ask attempts before an ASK. -/
def State.repairOk (s : State) (w : Sub) : Bool :=
  (match w.repair.state with
    | .delay => decide (s.line = .active ∧ w.repair.timer = s.askDelayTimer ∧ w.repair.attempts < s.askAttempts)
    | .answer => decide (s.line = .active ∧ w.repair.timer = s.answerWaitTimer ∧ w.repair.attempts ≤ s.askAttempts)
    | .asking =>
      decide (s.line = .active ∧ w.repair.timer = .stopped ∧ w.repair.attempts < s.askAttempts) && w.hasHole && !w.full
    | .parked => decide (s.line ≠ .active ∧ w.repair.timer = .stopped ∧ w.repair.attempts ≤ s.askAttempts)
    | .idle => decide (w.repair.timer = .stopped ∧ w.repair.attempts = 0)
    | .halted => decide (w.repair.timer = .stopped ∧ w.repair.attempts = 0))
    && (decide (w.repair.state = .halted) == decide (w.state = .stalled))
    && (if w.state = .running ∧ w.hasHole = true then decide (w.repair.state ≠ .idle) else true)
    && (if w.state = .waiting ∨ w.state = .orphaned then decide (w.repair.state = .idle) else true)

/-- R45, R47, R51: every open subscription has a sound window and an origin 1..62 other than the own address, and no two
have the same (origin, stream). -/
abbrev WindowsOk (s : State) : Prop :=
  (∀ h : SubHandle, ∀ w ∈ s.sub h,
    w.windowOk = true ∧ w.origin ≠ s.ownAddr ∧ 1 ≤ w.origin.toNat ∧ w.origin.toNat ≤ 62)
    ∧ (∀ h h' : SubHandle, ∀ w ∈ s.sub h, ∀ w' ∈ s.sub h', w.origin = w'.origin → w.stream = w'.stream → h = h')

/-- Every open subscription has a sound repair machine. -/
abbrev RepairsOk (s : State) : Prop := ∀ h : SubHandle, ∀ w ∈ s.sub h, s.repairOk w = true

/-- R77, R78: an ASK waits exactly for a machine in ASKING, and then its window has room. -/
abbrev AsksOk (s : State) : Prop :=
  (∀ h : SubHandle, s.wantsAsk h = true → s.hasOffer (.ask h) = true)
    ∧ (∀ h : SubHandle, ∀ o ∈ s.offers, o.item = .ask h → o.inFlight = false →
        ∃ w ∈ s.sub h, w.repair.state = .asking ∧ w.full = false)

/-! ### The sample port (R33, R34) -/

/-- R33, R34: a frame in progress has fewer than 128 bits, and with none in progress no bit is kept. -/
abbrev FrameOk (s : State) : Prop :=
  s.frameBits.length ≤ 127 ∧ (s.frameInProgress = false → s.frameBits = [])

/-! ### The line, the timers and the roster -/

/-- R102, R115, R123, R145, R148: the interval timer and the presence timer run while the line is ACTIVE and only then
(the interval timer never with the interval 0), the listen span timer only in LISTENING, the streak stays within 16, in
the states that read nothing the line is not idle and no bit is kept, the line is idle only while no parcel is on it,
and the recessive bits counted while it is not idle are fewer than ten (R153). -/
abbrev LineOk (s : State) : Prop :=
  s.intervalTimer = (if s.line = .active then s.intervalStart else .stopped)
    ∧ s.presenceTimer = (if s.line = .active then s.presenceStart else .stopped)
    ∧ (s.listenTimer.isRunning = true → s.line = .listening)
    ∧ s.streak ≤ 16
    ∧ (s.line.receives = false →
        s.lineIdle = false ∧ s.assembling = false ∧ s.bits.recessive = 0 ∧ s.bits.rx = none)
    ∧ (s.lineIdle = true → s.assembling = false ∧ s.bits.recessive = 0 ∧ ∀ o ∈ s.offers, o.inFlight = false)
    ∧ s.bits.recessive ≤ 9

/-- R114, R115, R126: the own entry is SELF and no other; a peer's silence timer runs exactly in PRESENT and SILENT; the
advertisement list is empty in UNKNOWN and GONE, has at most 16 entries that the filter passes and names no stream
number twice; a stored interval is not 0. -/
def State.entryOk (s : State) (a : Addr) : Bool :=
  let e := s.peer a
  (decide (e.state = .self) == decide (s.config.isSome = true ∧ a = s.ownAddr))
    && (e.timerOn == decide (e.state = .present ∨ e.state = .silent))
    && (if e.state = .unknown ∨ e.state = .gone ∨ e.state = .self then e.adverts.isEmpty else true)
    && decide (e.adverts.length ≤ 16)
    && decide ((e.adverts.map Advert.stream).Nodup)
    && e.adverts.all Advert.passes
    && decide (e.interval ≠ some 0)

/-- The sixty-two entries of the roster are sound. -/
abbrev RosterOk (s : State) : Prop :=
  ∀ a : Fin 62, s.entryOk (BitVec.ofNat 6 (a.val + 1)) = true

/-- A sound state: what the manual says holds after every event. -/
structure Sound (s : State) : Prop where
  notices : NoticesOk s.notices
  slots : SlotsOk s
  config : ConfigOk s
  list : ListOk s
  wait : WaitOk s
  markOffer : MarkOfferOk s
  goneOffer : GoneOfferOk s
  goneLine : GoneLineOk s
  positions : PositionsOk s
  rings : RingsOk s
  closing : ClosingOk s
  windows : WindowsOk s
  repairs : RepairsOk s
  asks : AsksOk s
  frame : FrameOk s
  line : LineOk s
  roster : RosterOk s

/-! ### Words that statements are made of -/

/-- What kind of step a row of the table is. -/
inductive StepKind
  /-- A host command allowed before and after CONFIGURE, or CONFIGURE itself (R165). -/
  | always
  /-- A host command allowed only after CONFIGURE (R165). -/
  | command
  /-- An event of the host port (R162, R165, R166). -/
  | port
  /-- The beginning or the end of a power-up or RESETN reset (R169). -/
  | reset
  /-- An event of the sample port or of MARKIN (R33, R101). -/
  | pin
  /-- The expiry of a timer (R76, R79, R102, R122, R123, R148). -/
  | timer
  /-- The start of a parcel of the station (R135). -/
  | start
  /-- The outcome of the parcel in flight (R137). -/
  | outcome
  /-- The end of a parcel being received (R155, R159 to R161). -/
  | reception
  /-- The line becomes idle (R153). -/
  | idle
  deriving DecidableEq, Repr

/-- The kind of each row. -/
def stepKind : Instr → StepKind
  | .configure _ => .always
  | .restart => .always
  | .status => .always
  | .join => .command
  | .leave => .command
  | .mark => .command
  | .nextNotice => .command
  | .openPub _ _ _ _ _ _ _ => .command
  | .closePub _ => .command
  | .put _ _ _ => .command
  | .pubStatus _ => .command
  | .openSub _ _ _ _ _ => .command
  | .closeSub _ => .command
  | .take _ => .command
  | .read _ _ _ => .command
  | .release _ => .command
  | .resume _ => .command
  | .subStatus _ => .command
  | .roster _ => .command
  | .unknownCode _ => .port
  | .transactionStart => .port
  | .transactionCut => .port
  | .powerUp => .reset
  | .resetnLow => .reset
  | .resetEnd _ => .reset
  | .frameStart => .pin
  | .frameArrival _ => .pin
  | .markinEdge _ => .pin
  | .askDelayExpiry _ => .timer
  | .answerWaitExpiry _ => .timer
  | .intervalTimerExpiry => .timer
  | .presenceTimerExpiry => .timer
  | .silenceTimerSilent _ => .timer
  | .silenceTimerGone _ => .timer
  | .listenSpanExpiry => .timer
  | .parcelStart => .start
  | .outcomeSent => .outcome
  | .outcomeLost => .outcome
  | .outcomeFailed => .outcome
  | .helloAccepted _ _ => .reception
  | .markAccepted _ _ => .reception
  | .dataAccepted _ _ => .reception
  | .askAccepted _ _ => .reception
  | .goneAccepted _ _ => .reception
  | .brokenParcel => .reception
  | .discardedParcel _ => .reception
  | .lineIdle => .idle
  | .supplyDrop => .reset
  | .lastResponseByte => .port

/-- R169, R171: the step can reset the part. -/
def canReset (i : Instr) : Bool := decide (i = .restart) || decide (stepKind i = .reset)

/-- R163: a host command is being collected by a configured part. -/
abbrev State.takes (s : State) : Prop := s.collecting = true ∧ s.config.isSome = true

/-- R159 to R161: a parcel with this header ends whole, passes the filter, and comes from a peer that is PRESENT, so
that its presence step only restarts a running timer (R116). -/
abbrev State.hears (s : State) (hd : Header) : Prop :=
  s.canReceive = true ∧ hd.passes = true ∧ hd.origin ≠ s.ownAddr ∧ (s.peer hd.origin).state = .present
    ∧ (s.peer hd.origin).timerOn = true

/-- The row of the table by which a parcel is received. -/
def receptionOf (p : Parcel) : Instr :=
  match p.body with
  | .hello b => .helloAccepted p.header b
  | .mark m => .markAccepted p.header m
  | .data b => .dataAccepted p.header b
  | .ask b => .askAccepted p.header b
  | .gone b => .goneAccepted p.header b

/-- The state a step leaves. -/
def State.after (s : State) (i : Instr) : State :=
  match exec i s with
  | .next t => t
  | .fault _ => s
  | .refused _ => s

/-- R33: `n` frames shifted in one after another, the `j`-th with the bits `bits j`. -/
def State.feed (s : State) (bits : Nat → BitVec 128) : Nat → State
  | 0 => s
  | n + 1 => ((s.feed bits n).after .frameStart).after (.frameArrival (bits n))

/-- R167: the port answers a refusal, or a status with no data. -/
def State.answers (s : State) (bytes : List Byte) : State := { s with txn := .responding bytes }

/-- The offer entry as it is admitted (R132). -/
def freshOffer (i : OfferItem) : Offer := ⟨i, 0, none⟩

/-- R12: the arguments of OPEN_PUB pass checks 1 and 2. -/
abbrev openPubInRange (stream source size start mask k : Byte) (d : Word16) : Prop :=
  stream.toNat ≤ 15 ∧ source.toNat ≤ 1 ∧ start.toNat ≤ 1 ∧ 2 ≤ size.toNat ∧ size.toNat ≤ 16
    ∧ (source = 0 → mask ≠ 0 ∧ 1 ≤ k.toNat ∧ k.toNat ≤ 32 ∧ 1 ≤ d.toNat ∧ d.toNat ≤ 256
        ∧ channelCount mask * k.toNat ≤ 32)
    ∧ (source = 1 → mask = 0)

/-- R47: the arguments of OPEN_SUB pass check 1 at a station of address `own`. -/
abbrev openSubInRange (own : Addr) (origin stream size policy start : Byte) : Prop :=
  1 ≤ origin.toNat ∧ origin.toNat ≤ 62 ∧ origin.toNat ≠ own.toNat ∧ stream.toNat ≤ 15 ∧ 2 ≤ size.toNat
    ∧ size.toNat ≤ 32 ∧ policy.toNat ≤ 2 ∧ start.toNat ≤ 1

/-- R130: the offer list as the outcome SENT or an exhausted failure leaves it: without the entry in flight. -/
def State.offersLanded (s : State) : List Offer := s.offers.filter fun o => !o.inFlight

/-- R137, R139, R140, R142: the state as an outcome LOST or FAILED that takes its entry out of the list leaves the
scheduler and the line interface; FAILED raises the streak. -/
def State.dropped (s : State) (c : Instr) : State :=
  { s with
    offers := s.offersLanded
    streak := if c = .outcomeFailed then min 16 (s.streak + 1) else s.streak
    lineIdle := false
    assembling := s.mayAssemble }

/-- R138, R153: the state as the outcome SENT leaves the scheduler and the line interface: the entry is gone, the streak
is 0, and the station waits for the idle condition. -/
def State.carried (s : State) : State :=
  { s with streak := 0, lineIdle := false, assembling := false, bits := s.bitsSent, offers := s.offersLanded }

/-- R153, R159: the state as the end of a parcel received whole leaves the line interface: it waits for the idle
condition, seven of whose ten bits are the end field. -/
def State.heard (s : State) : State := { s with lineIdle := false, assembling := false, bits := s.bits.ended }

/-- R155, R159: what the receiving side does as the parcel being assembled ends, or goes on. -/
def endOfAssembly (a : Assembly) (s : State) : Host.Outcome State Fault Refusal :=
  match a with
  | .unfinished => .next s
  | .broken => exec .brokenParcel s
  | .received bytes => exec (.discardedParcel bytes) s

/-- `t` is `s` with the record `v` on the handle `h`, and nothing else changed. -/
abbrev State.onlySub (s t : State) (h : SubHandle) (v : Sub) : Prop :=
  t = { s with subs := t.subs } ∧ t.sub h = some v ∧ ∀ h' : SubHandle, h' ≠ h → t.sub h' = s.sub h'

/-- R38, R39: the publication and the builder of a stream number that a frame arriving now completes. -/
def State.frameDue (s : State) (n : StreamNo) : Option (Pub × Builder) :=
  match s.pub n with
  | some p =>
    match p.builder with
    | some b =>
      if p.state = .running ∧ p.source = .capture ∧ b.phase = 0 ∧ p.k = b.collected + 1 then some (p, b) else none
    | none => none
  | none => none

/-- R41, step 1: the publication and the builder of a stream number that an adoption now seals short. -/
def State.shortDue (s : State) (n : StreamNo) : Option (Pub × Builder) :=
  match s.pub n with
  | some p =>
    match p.builder with
    | some b => if p.state = .running ∧ p.source = .capture ∧ 1 ≤ b.collected then some (p, b) else none
    | none => none
  | none => none

/-- R21, R132: the entries that the seals of several stream numbers admit, ascending by stream number; none outside
ACTIVE. -/
def State.sealOffers (s : State) (due : StreamNo → Option (Pub × Builder)) : List Offer :=
  if s.line = .active then
    allStreams.filterMap fun n =>
      match due n with
      | some (p, _) => if p.backlogged then none else some (freshOffer (.fresh n p.target))
      | none => none
  else []

/-- R22: the queue after the PUB_OVERRUN notices of the seals that meet a backlog overrun, ascending by stream number;
each adds the frames its builder held. -/
def State.overrunNotices (s : State) (due : StreamNo → Option (Pub × Builder)) (frames : Builder → Nat) :
    List Notice :=
  allStreams.foldl (fun q n =>
    match due n with
    | some (p, b) =>
      if p.backlogged then postNotice q .pubOverrun (.stream n) (satAdd p.overrunFrames (frames b)) else q
    | none => q) s.notices

/-- R18, R20, R21: a record sealed into the target position of a publication, QUEUED in ACTIVE, else SENT. -/
def Pub.sealed (p : Pub) (line : LineState) (r : Record) : Pub :=
  { p with
    head := some ⟨p.nextSeq, p.target⟩
    sealedCount := satAdd p.sealedCount 1
    ring := p.ring.modify p.target fun x => { x with state := if line = .active then .queued r else .sent r } }

/-- R110, R14, R41: `t` is `s` after the adoption of the mark number `m`: M, the last-mark record with the span F, F to
0, no request pending and no MARK entry, the interval timer restarted in ACTIVE, the builders that hold frames sealed
short (or, where the target position still has an offer, their frames counted as overrun, with PUB_OVERRUN), every
builder empty with phase 0, every ARMED publication RUNNING, and MARK_ADOPTED. -/
abbrev State.adoptsTo (s t : State) (m : MarkNo) (src : MarkSource) (origin : Addr) : Prop :=
  t = { s with
      markNo := m
      lastMark := some ⟨m, src, origin, s.frameOffset⟩
      frameOffset := 0
      markPending := false
      streams := t.streams
      offers := (s.offers.filter fun o => decide (o.item ≠ .mark)) ++ s.sealOffers s.shortDue
      intervalTimer := if s.line = .active then s.intervalStart else s.intervalTimer
      notices := postNotice (s.overrunNotices s.shortDue Builder.collected) .markAdopted .none m }
    ∧ ∀ n : StreamNo, t.stream n =
        { s.stream n with
          pub := (s.pub n).map fun p =>
            match s.shortDue n with
            | some (_, b) =>
              if p.backlogged then
                { p with overrunFrames := satAdd p.overrunFrames b.collected, builder := some ⟨0, 0, [], none⟩ }
              else
                { p.sealed s.line
                    ⟨s.ownAddr, n, p.gen, p.nextSeq, (b.stamps.getD (0, 0)).1, (b.stamps.getD (0, 0)).2, p.mask,
                      byteOf b.collected, false, true, false, false, b.samples⟩ with
                  builder := some ⟨0, 0, [], none⟩ }
            | none =>
              { p with
                state := if p.state = .armed then .running else p.state
                builder := p.builder.map fun b => { b with phase := 0 } } }

/-- R75, R81, R82: a machine told of its holes: DELAY with a fresh timer in ACTIVE, PARKED in any other line state, IDLE
without a hole. -/
def State.machineFor (s : State) (hole : Bool) (attempts : Nat) : Repair :=
  if hole then if s.line = .active then ⟨.delay, attempts, s.askDelayTimer⟩ else ⟨.parked, attempts, .stopped⟩
  else ⟨.idle, attempts, .stopped⟩

/-- R90 to R92: the pending GONE range after a new one is put in place: merged with a pending one of the same generation
to the range from the earlier first to the later last, where both are compared and in order; else the new one alone. -/
def joinedRange (pending : Option GoneRange) (new : GoneRange) : GoneRange :=
  match pending with
  | none => new
  | some old =>
    let f := if sdist old.first new.first < 0 then new.first else old.first
    let l := if sdist old.last new.last < 0 then old.last else new.last
    if old.gen ≠ new.gen ∨ dist old.first new.first = 32768 ∨ dist old.last new.last = 32768 ∨ earlier l f = true then new
    else ⟨new.gen, f, l⟩

/-! ### What a signal or a GONE makes of a window (R62 to R70, R85, R119) -/

/-- N, 0 where there is none. -/
def Sub.nextOrZero (w : Sub) : Seq :=
  match w.point with
  | some q => q.next
  | none => 0

/-- R62 to R64: the window after `k` abandon steps in a row by its policy, FILL or SKIP, each on its own N. -/
def Sub.gaveUp (w : Sub) : Nat → Sub
  | 0 => w
  | k + 1 =>
    match (w.gaveUp k).point with
    | some q => (w.gaveUp k).giveUp q (decide (w.policy = .fill))
    | none => w.gaveUp k

/-- The abandonment that goes on while `go` holds stops after `k` steps. -/
abbrev Sub.stopsAt (w : Sub) (go : Sub → Bool) (k : Nat) : Prop :=
  (∀ j : Nat, j < k → go (w.gaveUp j) = true) ∧ go (w.gaveUp k) = false

/-- R68, R70: the holes inside the ahead run as it stands at the signal are given up after `k` steps. -/
abbrev Sub.windowClosesAt (w : Sub) (k : Nat) : Prop :=
  ∀ q : Point, w.point = some q → w.stopsAt (Sub.withinWindowEnd (w.windowEnd q)) k

/-- R62 to R64: the STREAM_LOSS notices of `k` abandon steps, each with its N. -/
def Sub.lossNotices (h : SubHandle) (w : Sub) (q : List Notice) : Nat → List Notice
  | 0 => q
  | k + 1 => postNotice (w.lossNotices h q k) .streamLoss (.sub h) (w.gaveUp k).nextOrZero

/-- R56: STREAM_READY at the end of an event that found no READY or LOST slot in `w` and leaves one in `v`. -/
def readyNotice (h : SubHandle) (w v : Sub) (q : List Notice) : List Notice :=
  if w.waiting = 0 ∧ 0 < v.waiting then postNotice q .streamReady (.sub h) (word16Of v.waiting) else q

/-- R56, R85: the notices of `k` abandon steps that are each an event: STREAM_LOSS, then STREAM_READY where it is due.
-/
def Sub.stepNotices (h : SubHandle) (w : Sub) (q : List Notice) : Nat → List Notice
  | 0 => q
  | k + 1 =>
    readyNotice h (w.gaveUp k) (w.gaveUp (k + 1))
      (postNotice (w.stepNotices h q k) .streamLoss (.sub h) (w.gaveUp k).nextOrZero)

/-- R70, R82: what the gone signal makes of a subscription: ORPHANED, its machine IDLE. In RUNNING under FILL and SKIP
the holes inside the window are given up first, in `k` steps, and the horizon forgotten; under STALL the window is kept.
-/
def Sub.orphanedBy (w : Sub) (k : Nat) : Sub :=
  if w.state = .orphaned then w
  else if w.state = .running ∧ w.policy ≠ .stall then
    { w.gaveUp k with h := -1, state := .orphaned, repair := ⟨.idle, 0, .stopped⟩ }
  else { w with state := .orphaned, repair := ⟨.idle, 0, .stopped⟩ }

/-- R56, R70: the notices of the gone signal at a subscription: STREAM_LOSS for each hole given up, or STREAM_STALLED
for a hole under STALL in RUNNING; then STREAM_ORPHANED, then STREAM_READY where it is due (its place at the end of the
event is log entry 6). -/
def Sub.orphanNotices (h : SubHandle) (w : Sub) (k : Nat) (q : List Notice) : List Notice :=
  if w.state = .orphaned then q
  else
    readyNotice h w (w.orphanedBy k)
      (postNotice
        (if w.state = .running ∧ w.policy ≠ .stall then w.lossNotices h q k
        else if w.state = .running ∧ w.hasHole = true then postNotice q .streamStalled (.sub h) w.nextOrZero
        else q)
        .streamOrphaned (.sub h) (w.origin.setWidth 16))

/-- R69, R82: what the restarted signal makes of a subscription: WAITING without G and N, its HELD slots dropped and
counted, its machine IDLE; ORPHANED is as it was. -/
def Sub.restartedBy (w : Sub) : Sub :=
  if w.state = .orphaned then w
  else
    { w with
      slots := w.slots.map fun y => { y with state := if y.state.isHeld then .free else y.state }
      point := none
      h := -1
      state := .waiting
      repair := ⟨.idle, 0, .stopped⟩
      discarded := satAdd w.discarded (w.count SlotState.isHeld) }

/-- R55, R67, R82: the window starts on the generation of an advertisement: nothing sealed, N is 0; LIVE starts after L;
HISTORY starts at O with the horizon at L. HELD slots are dropped and counted, and the machine starts afresh. -/
def State.startedOn (s : State) (w : Sub) (x : Advert) : Sub :=
  let start : Seq × Int :=
    match x.range with
    | none => (0, -1)
    | some (o, l) => if w.start = .live then (l + 1, -1) else (o, (dist o l : Int))
  { w with
    state := .running
    point := some ⟨x.gen, start.1⟩
    h := start.2
    repair := s.machineFor (decide (0 ≤ start.2)) 0
    slots := w.slots.map fun y => { y with state := if y.state.isHeld then .free else y.state }
    discarded := satAdd w.discarded (w.count SlotState.isHeld) }

/-- R67, R75: what the advertised signal makes of a subscription. -/
def State.advertisedTo (s : State) (w : Sub) (x : Advert) : Sub :=
  match w.state, w.point with
  | .orphaned, _ => w
  | .waiting, _ => s.startedOn w x
  | _, some q =>
    if genLater x.gen q.gen = true then s.startedOn w x
    else if x.gen = q.gen then
      match x.range with
      | some (_, l) =>
        if earlier l q.next = true then w
        else
          { w with
            h := max w.h (dist q.next l)
            repair := if w.h = -1 ∧ w.repair.state = .idle then s.machineFor true w.repair.attempts else w.repair }
      | none => w
    else w
  | _, none => w

/-- R65, R68, R80: what the not-listed signal makes of a subscription: in RUNNING under FILL and SKIP the holes inside
the window are given up in `k` steps; under STALL a hole with room stalls it; the horizon is forgotten. -/
def Sub.notListedBy (w : Sub) (k : Nat) : Sub :=
  if w.state = .stalled then { w with h := -1 }
  else if w.state = .running then
    if w.policy ≠ .stall then { w.gaveUp k with h := -1, repair := ⟨.idle, 0, .stopped⟩ }
    else if w.hasHole = true ∧ w.full = false then
      { w with h := -1, state := .stalled, repair := ⟨.halted, 0, .stopped⟩ }
    else { w with h := -1, repair := ⟨.idle, 0, .stopped⟩ }
  else w

/-- R67, R68, R119: what a HELLO's list makes of a subscription of its origin: advertised, by the first entry of its
stream number, or not listed. -/
def State.listedBy (s : State) (l : List Advert) (w : Sub) (k : Nat) : Sub :=
  match l.find? fun y => decide (y.stream = w.stream) with
  | some x => s.advertisedTo w x
  | none => w.notListedBy k

/-- R55, R56, R62 to R68: the notices of the advertised or not-listed signal at a subscription: STREAM_RESYNC on a later
generation; STREAM_LOSS for each hole given up, or STREAM_STALLED; then STREAM_READY where it is due. -/
def State.listNotices (s : State) (l : List Advert) (h : SubHandle) (w : Sub) (k : Nat) (q : List Notice) :
    List Notice :=
  match l.find? fun y => decide (y.stream = w.stream) with
  | some x =>
    match w.point with
    | some p =>
      if (w.state = .running ∨ w.state = .stalled) ∧ genLater x.gen p.gen = true then
        postNotice q .streamResync (.sub h) (x.gen.setWidth 16)
      else q
    | none => q
  | none =>
    if w.state = .running then
      readyNotice h w (s.listedBy l w k)
        (if w.policy ≠ .stall then w.lossNotices h q k
        else if w.hasHole = true ∧ w.full = false then postNotice q .streamStalled (.sub h) w.nextOrZero
        else q)
    else q

/-- R129: the notices of a signal at every open subscription of an origin, in ascending order of handle. -/
def State.signalNotices (s : State) (a : Addr) (f : SubHandle → Sub → List Notice → List Notice) (q : List Notice) :
    List Notice :=
  allHandles.foldl (fun q h =>
    match s.sub h with
    | some w => if w.origin = a then f h w q else q
    | none => q) q

end Sys2Proof.Machine
end

