-- ==== Sys2Proof/Certificates/Slice0/Obligations.lean ====
section
/-! DEFINITION. The statements for the provers. Each says which rules of spec/ it formalises; where a statement rests on
a choice of the model its docstring names the log entry. -/

open Sys2Proof Sys2Proof.Machine

/-! ### The machine as a whole -/

/-- A step takes the command at the front of the queue and is `exec` of it on the state with the queue's rest; on an
empty queue the first of what happens at the wires takes place, and with none of that the block idles. Both queues are
the model's own (log entries 2 and 3). -/
def Obligations.StepRunsFront : Prop :=
  (∀ (s : State) (c : Instr) (rest : List Instr),
    s.pending = c :: rest → step s = exec c { s with pending := rest })
    ∧ (∀ (s : State) (w : Wire) (rest : List Wire),
        s.pending = [] → s.wires = w :: rest → step s = tick w { s with wires := rest })
    ∧ ∀ s : State, s.pending = [] → s.wires = [] → step s = .next s

/-- Every row of the table completes in every state, and so does everything that happens at the wires; none touches the
queues: a refused command is a status byte (R167) and a bad parcel is discarded (R155, R160). The queues are the model's
own (log entry 2). -/
def Obligations.EveryStepCompletes : Prop :=
  (∀ (c : Instr) (s : State), ∃ t : State, exec c s = .next t ∧ t.pending = s.pending ∧ t.wires = s.wires)
    ∧ ∀ (w : Wire) (s : State), ∃ t : State, tick w s = .next t ∧ t.pending = s.pending ∧ t.wires = s.wires

/-- What a reset leaves in every block (R9, R10, R36, R46, R98, R115, R144, R145, R170, R173), and that this state is
sound. -/
def Obligations.ResetLeaves : Prop :=
  State.reset.config = none ∧ State.reset.freeSlots = List.range 256
    ∧ (∀ n : StreamNo, State.reset.stream n = ⟨0, none, none⟩)
    ∧ State.reset.frameOffset = 0 ∧ State.reset.frameInProgress = false ∧ State.reset.frameBits = []
    ∧ (∀ h : SubHandle, State.reset.sub h = none)
    ∧ State.reset.markNo = 0 ∧ State.reset.markPending = false ∧ State.reset.lastMark = none
    ∧ State.reset.intervalTimer = .stopped
    ∧ (∀ a : Addr, State.reset.peer a = ⟨.unknown, none, none, none, [], false⟩)
    ∧ State.reset.presenceTimer = .stopped ∧ State.reset.offers = [] ∧ State.reset.streak = 0
    ∧ State.reset.line = .unconfigured ∧ State.reset.listenTimer = .stopped
    ∧ State.reset.txn = .idle ∧ State.reset.notices = [] ∧ State.reset.attnLow = false
    ∧ Sound State.reset

/-! ### Invariants that every step keeps -/

/-- R173, R175: the notice queue keeps its form: at most 32 entries, no two of one kind and object, NOTICE_OVERFLOW only
in the last place. -/
def Obligations.StepKeepsNotices : Prop :=
  ∀ s t : State, NoticesOk s.notices → step s = .next t → NoticesOk t.notices

/-- R8: the free count plus the sizes lent is 256 after reset, and every step keeps the sum. -/
def Obligations.SlotSumConstant : Prop :=
  State.reset.slotTotal = 256
    ∧ ∀ s t : State, s.slotTotal = 256 → step s = .next t → t.slotTotal = 256

/-- R5, R6, R7: every step keeps every slot in exactly one place: the ascending free list, or one position of one ring
or window. -/
def Obligations.StepKeepsSlots : Prop :=
  ∀ s t : State, SlotsOk s → step s = .next t → SlotsOk t

/-- R145, R168, R170, R172: every step keeps an unconfigured part as a reset left it, but for the transaction and the
level of FSYNC as FCLK last read it (log entry 23), and a configured one with its image in range and a line state other
than UNCONFIGURED. -/
def Obligations.StepKeepsConfig : Prop :=
  ∀ s t : State, ConfigOk s → step s = .next t → ConfigOk t

/-- R130, R131, R140, R141: every step keeps at most one entry for each resource, at most one in flight, and fewer than
four failures on each, none on the join HELLO. -/
def Obligations.StepKeepsOfferList : Prop :=
  ∀ s t : State, ListOk s → step s = .next t → ListOk t

/-- R102, R115, R123, R145, R148: every step keeps the interval timer and the presence timer running exactly in ACTIVE,
the listen span timer stopped outside LISTENING, and the streak within 16. The receiving side's bits are the model's
reading of R153 and R159 (log entries 1, 12 and 22). -/
def Obligations.StepKeepsTimers : Prop :=
  ∀ s t : State, ConfigOk s → LineOk s → step s = .next t → ConfigOk t ∧ LineOk t

/-- R114, R115, R119, R126: every step keeps the own entry SELF, every peer's timer in step with its state, and the
stored advertisements one for each stream number. -/
def Obligations.StepKeepsRoster : Prop :=
  ∀ s t : State, ConfigOk s → RosterOk s → step s = .next t → RosterOk t

/-- R3, R11, R12, R18, R19, R37: every step keeps the retained sequences of every publication one unbroken run that ends
at L, each in its position with a consistent record, and every builder within its bounds. -/
def Obligations.StepKeepsRings : Prop :=
  ∀ s t : State, ConfigOk s → RingsOk s → step s = .next t → RingsOk t

/-- R45, R47, R51: every step keeps the window invariant of every subscription, and at most one subscription for each
(origin, stream). Where R51 meets R68 and R70 under the STALL policy the invariant follows those (log entry 7). -/
def Obligations.StepKeepsWindows : Prop :=
  ∀ s t : State, ConfigOk s → RosterOk s → WindowsOk s → step s = .next t → WindowsOk t

/-- The headline: every step keeps a sound state sound, the agreement of the offer list with the owners of its entries
(R18, R78, R90, R99, R134) and the repair machines (R73 to R83) among the rest. What it takes from the model's reading
is as in the statements of its parts: the windows under STALL (log entry 7), the bits of the receiving side (log entries
1, 12 and 22), the level of FSYNC (log entry 23). -/
def Obligations.StepKeepsSound : Prop :=
  ∀ s t : State, Sound s → step s = .next t → Sound t

/-! ### Rules of the whole machine -/

/-- R133, R136: between the start of a parcel and its outcome no step withdraws its entry or changes the content fixed
at the start, and (R168) the image, once stored, stands until a reset. -/
def Obligations.FlightAndImageFixed : Prop :=
  (∀ (c : Instr) (s t : State) (o : Offer), canReset c = false → stepKind c ≠ .outcome → exec c s = .next t →
    o ∈ s.offers → o.inFlight = true → o ∈ t.offers)
    ∧ ∀ (c : Instr) (s t : State) (i : Image), s.config = some i → exec c s = .next t →
        t.config = some i ∨ (canReset c = true ∧ t.config = none)

/-- R110: the mark number changes only by adoption of a serially later number, except that a reset sets it to 0. -/
def Obligations.MarkMovesForward : Prop :=
  ∀ (c : Instr) (s t : State), MarkOfferOk s → exec c s = .next t →
    t.markNo = s.markNo ∨ later t.markNo s.markNo = true ∨ (canReset c = true ∧ t.markNo = 0)

/-- R50: a record in a READY, LOST or TAKEN slot is changed by no step but the RELEASE of a slot, the CLOSE_SUB of a
subscription, or a reset: the slot is still READY, LOST or TAKEN and holds the same record. -/
def Obligations.DeliveredRecordsStay : Prop :=
  ∀ (c : Instr) (s t : State) (h : SubHandle) (w : Sub) (i : Nat) (r : Record),
    WindowsOk s → canReset c = false → (∀ x, c ≠ .release x) → (∀ x, c ≠ .closeSub x) → exec c s = .next t →
    s.sub h = some w → (w.at i = .ready r ∨ w.at i = .lost r ∨ w.at i = .taken r) →
    ∃ v : Sub, t.sub h = some v ∧ (v.at i = .ready r ∨ v.at i = .lost r ∨ v.at i = .taken r)

/-! ### The host port -/

/-- R162, R163, R165, R166, R170: SCS falling outside a reset begins a transaction in IDLE, SCS rising ends one in any
state and discards what is collected of a command, the last response byte leads to DONE, and outside COLLECTING, or in a
reset, SDI is ignored. Below the rows: a rising edge of SCK collects one bit of SDI, the eighth completes a byte, and a
command is taken with the byte that completes it, or answered STATE at a code byte that is not allowed; a falling edge
presents the next bit of the response, most significant first, or 0. That the last response byte is shifted out with its
eighth rising edge is log entry 21. -/
def Obligations.PortTransactions : Prop :=
  (∀ s : State, s.scsLow = false → s.inReset = false → s.txn = .idle →
    exec .transactionStart s = .next { s with scsLow := true, txn := .collecting })
    ∧ (∀ s : State, s.scsLow = false → s.inReset = true → exec .transactionStart s = .next { s with scsLow := true })
    ∧ (∀ s : State, s.scsLow = true → exec .transactionStart s = .next s)
    ∧ (∀ s : State, exec .transactionCut s = .next { s with scsLow := false, txn := .idle, spi := ⟨[], [], 0, false⟩ })
    ∧ (∀ (s : State) (bs : List Byte), s.txn = .responding bs →
        exec .lastResponseByte s = .next { s with txn := .done })
    ∧ (∀ s : State, (∀ bs, s.txn ≠ .responding bs) → exec .lastResponseByte s = .next s)
    ∧ (∀ (s : State) (c : Instr), stepKind c = .always ∨ stepKind c = .command ∨ (∃ x, c = .unknownCode x) →
        (s.txn ≠ .collecting ∨ s.inReset = true) → exec c s = .next s)
    ∧ (∀ s : State, tick .scsFall s = exec .transactionStart s ∧ tick .scsRise s = exec .transactionCut s)
    ∧ (∀ (s : State) (x : Bool), s.scsLow = true → s.collecting = true →
        (s.spi.bits.length < 7 → tick (.sckRise x) s = .next { s with spi := { s.spi with bits := s.spi.bits ++ [x] } })
        ∧ ∀ bytes : List Byte, s.spi.bits.length = 7 → bytes = s.spi.bytes ++ [bitsByte (s.spi.bits ++ [x])] →
          (∀ code : Byte, s.spi.bytes = [] → bytes = [code] → knownCode code = true →
            (s.config = none ∧ code ≠ 0x01 ∧ code ≠ 0x02 ∧ code ≠ 0x03 ∨ s.config.isSome = true ∧ code = 0x01) →
            tick (.sckRise x) s = .next { s with spi := ⟨[], [], 0, false⟩, txn := .responding [0x11] })
          ∧ ((∀ code ∈ bytes.head?, s.config = none ∧ (code = 0x01 ∨ code = 0x02 ∨ code = 0x03)
                ∨ s.config.isSome = true ∧ code ≠ 0x01 ∨ knownCode code = false) →
            (∀ c : Instr, decodeCommand bytes = some c →
              tick (.sckRise x) s = exec c { s with spi := ⟨[], [], 0, false⟩ })
            ∧ (decodeCommand bytes = none →
              tick (.sckRise x) s = .next { s with spi := { s.spi with bits := [], bytes := bytes } })))
    ∧ (∀ (s : State) (x : Bool) (bs : List Byte), s.scsLow = true → s.txn = .responding bs →
        tick (.sckRise x) s = if 8 * bs.length ≤ s.spi.out then exec .lastResponseByte s else .next s)
    ∧ (∀ (s : State) (x : Bool),
        s.scsLow = false ∨ s.txn = .idle ∨ s.txn = .done ∨ (s.txn = .collecting ∧ s.inReset = true) →
        tick (.sckRise x) s = .next s)
    ∧ (∀ (s : State) (bs : List Byte) (j i : Nat) (b : Byte), s.scsLow = true → s.txn = .responding bs →
        bs[j]? = some b → i < 8 → s.spi.out = 8 * j + i →
        tick .sckFall s = .next { s with spi := { s.spi with level := b.getLsbD (7 - i), out := s.spi.out + 1 } })
    ∧ (∀ s : State, s.scsLow = true → s.txn = .collecting ∨ s.txn = .done →
        tick .sckFall s = .next { s with spi := { s.spi with level := false } })
    ∧ (∀ s : State, s.scsLow = false ∨ s.txn = .idle → tick .sckFall s = .next s)
    ∧ ∀ s : State, s.sdoLevel = if s.scsLow = true ∧ s.txn ≠ .idle then some s.spi.level else none

/-- R165: the two refusals at the code byte: a code that names no command is answered UNKNOWN; a known one is answered
STATE before CONFIGURE, but for CONFIGURE, STATUS and RESTART, and CONFIGURE is answered STATE after it. Neither has any
other effect. -/
def Obligations.CodeByteRefusals : Prop :=
  (∀ (s : State) (code : Byte), s.collecting = true → knownCode code = false →
    exec (.unknownCode code) s = .next (s.answers [0x1F]))
    ∧ (∀ (s : State) (c : Instr), s.collecting = true → s.config = none → stepKind c = .command →
        exec c s = .next (s.answers [0x11]))
    ∧ ∀ (s : State) (i : Image), s.collecting = true → s.config.isSome = true →
        exec (.configure i) s = .next (s.answers [0x11])

/-- R168: CONFIGURE checks every field; in range, the image is stored, the line enters OFFLINE and the entry of the
configured address becomes SELF; out of range, BAD_ARG and nothing changes. -/
def Obligations.ConfigureStoresImage : Prop :=
  (∀ i : Image, i.inRange = true ↔
    (1 ≤ i.address.toNat ∧ i.address.toNat ≤ 62) ∧ i.rateCode.toNat ≤ 3 ∧ 1 ≤ i.presence.toNat ∧ 1 ≤ i.askBase.toNat
      ∧ 1 ≤ i.answerWait.toNat ∧ (1 ≤ i.attempts.toNat ∧ i.attempts.toNat ≤ 7) ∧ i.pinEdge.toNat ≤ 2
      ∧ i.interval.toNat ≤ 60000)
    ∧ (∀ (s : State) (i : Image), s.collecting = true → s.config = none → i.inRange = true →
        ∃ t : State, exec (.configure i) s = .next t
          ∧ t = { s with config := some i, line := .offline, roster := t.roster, txn := .responding [0x00] }
          ∧ t.peer (addrOf i.address) = { s.peer (addrOf i.address) with state := .self }
          ∧ ∀ a : Addr, a ≠ addrOf i.address → t.peer a = s.peer a)
    ∧ ∀ (s : State) (i : Image), s.collecting = true → s.config = none → i.inRange = false →
        exec (.configure i) s = .next (s.answers [0x10])

/-- R171: RESTART is taken in every state; every block takes its reset value, the start cause becomes COMMAND, and the
transaction that carried it goes on to shift out OK. The level of SCS and the model's own fields, the two queues among
them, are no block's. That the sample port forgets the level of FSYNC is log entry 23. -/
def Obligations.RestartResets : Prop :=
  ∀ s : State, s.collecting = true →
    exec .restart s = .next
      { State.reset with
        startCause := .command
        firstReset := s.firstReset
        scsLow := s.scsLow
        txn := .responding [0x00]
        freeDraws := s.freeDraws
        pending := s.pending
        wires := s.wires }

/-- R169, R170, R183: a rising supply, or one that falls below 2.6 V, begins a power-up reset and a falling RESETN a
RESETN reset; a reset that comes while another holds is part of it; the part comes out of reset when neither holds it,
with the start cause of the one that began first. That RESET_END names what ends is log entry 11, the case of RESETN
rising first is log entry 10, and that the sample port forgets the level of FSYNC is log entry 23. -/
def Obligations.ResetsBeginAndEnd : Prop :=
  (∀ (s : State) (c : Instr), c = .powerUp ∨ c = .supplyDrop →
    exec c s = .next
      { State.reset with
        startCause := s.startCause
        firstReset := some (s.firstReset.getD .supply)
        supplyHold := true
        pinHold := s.pinHold
        scsLow := s.scsLow
        freeDraws := s.freeDraws
        pending := s.pending
        wires := s.wires })
    ∧ (∀ s : State, s.pinHold = false →
        exec .resetnLow s = .next
          { State.reset with
            startCause := s.startCause
            firstReset := some (s.firstReset.getD .pin)
            supplyHold := s.supplyHold
            pinHold := true
            scsLow := s.scsLow
            freeDraws := s.freeDraws
            pending := s.pending
            wires := s.wires })
    ∧ (∀ s : State, s.pinHold = true → exec .resetnLow s = .next s)
    ∧ (∀ (s : State) (k : ResetHold), s.supplyHold = decide (k = .supply) → s.pinHold = decide (k = .pin) →
        exec (.resetEnd k) s = .next
          { State.reset with
            startCause := if s.firstReset.getD k = .supply then .power else .pin
            scsLow := s.scsLow
            freeDraws := s.freeDraws
            pending := s.pending
            wires := s.wires })
    ∧ (∀ s : State, s.supplyHold = true → s.pinHold = true →
        exec (.resetEnd .supply) s = .next { s with supplyHold := false }
          ∧ exec (.resetEnd .pin) s = .next { s with pinHold := false, firstReset := some .supply })
    ∧ (∀ s : State, s.supplyHold = false → exec (.resetEnd .supply) s = .next s)
    ∧ ∀ s : State, s.pinHold = false → exec (.resetEnd .pin) s = .next s

/-- R172: STATUS is answered OK with the eighteen bytes of its table and changes nothing else; before CONFIGURE it
reports what a reset left and the start cause. -/
def Obligations.StatusReports : Prop :=
  (∀ s : State, s.collecting = true →
    exec .status s = .next (s.answers
      ([0x00, flagBit 0 s.config.isSome ||| flagBit 1 s.markPending ||| flagBit 2 s.lastMark.isNone, s.line.code,
          s.line.causeCode, s.startCause.code]
        ++ be16 s.markNo
        ++ (match s.lastMark with
          | some l => be16 l.number ++ [l.source.code, l.origin.setWidth 8] ++ be16 l.span
          | none => [0, 0, 0, 0, 0, 0])
        ++ be16 (word16Of s.freeSlots.length)
        ++ [byteOf s.notices.length, byteOf s.streak, byteOf (allHandles.countP fun h => (s.sub h).isSome),
          byteOf (allStreams.countP fun n => (s.pub n).isSome)])))
    ∧ ∀ s : State, s.collecting = true → ConfigOk s → s.config = none →
        exec .status s = .next (s.answers
          [0x00, 0x04, 0, 0, s.startCause.code, 0, 0, 0, 0, 0, 0, 0, 0, 1, 0, 0, 0, 0, 0])

/-- R176, R177, R182: NEXT_NOTICE removes the oldest entry and answers OK with its five bytes, or EMPTY with no effect;
a NOTICE_OVERFLOW so removed leaves the queue empty; before CONFIGURE it is answered STATE. ATTN is low exactly while an
entry is left. -/
def Obligations.NextNoticeRemovesOldest : Prop :=
  (∀ (s : State) (n : Notice) (q : List Notice), s.takes → s.notices = n :: q →
    ∃ t : State, exec .nextNotice s = .next t
      ∧ t = { s with
          notices := q
          txn := .responding ([0x00, n.kind.code,
              match n.object with
              | .none => 0
              | .sub h => byteOf h.val
              | .stream m => byteOf m.val
              | .address a => a.setWidth 8,
            byteOf n.count] ++ be16 n.detail) }
      ∧ (t.attnLow = true ↔ q ≠ []))
    ∧ (∀ (s : State) (n : Notice) (q : List Notice), NoticesOk s.notices → s.notices = n :: q →
        n.kind = .noticeOverflow → q = [])
    ∧ (∀ s : State, s.takes → s.notices = [] → exec .nextNotice s = .next (s.answers [0x01]))
    ∧ ∀ s : State, s.collecting = true → s.config = none → exec .nextNotice s = .next (s.answers [0x11])

/-- R174, R175: the four cases of a posted notice: it merges with the entry of its kind and object, or adds to a
NOTICE_OVERFLOW that is last, or is appended, or, at 31 entries, is discarded with a NOTICE_OVERFLOW appended. -/
def Obligations.NoticePosting : Prop :=
  ∀ (s : State) (k : NoticeKind) (o : NoticeObject) (d : Word16), k ≠ .noticeOverflow →
    s.post k o d = { s with notices := (s.post k o d).notices }
      ∧ (∀ (q : List Notice) (n : Notice) (r : List Notice), s.notices = q ++ n :: r → n.kind = k → n.object = o →
          (∀ x ∈ q ++ r, ¬(x.kind = k ∧ x.object = o)) →
          (s.post k o d).notices = q ++ { n with count := min 255 (n.count + 1), detail := d } :: r)
      ∧ ((∀ x ∈ s.notices, ¬(x.kind = k ∧ x.object = o)) →
          (∀ (q : List Notice) (c : Nat) (e : Word16), s.notices = q ++ [⟨.noticeOverflow, .none, c, e⟩] →
            (∀ x ∈ q, x.kind ≠ .noticeOverflow) →
            (s.post k o d).notices = q ++ [⟨.noticeOverflow, .none, min 255 (c + 1), k.code.setWidth 16⟩])
          ∧ ((∀ x ∈ s.notices.getLast?, x.kind ≠ .noticeOverflow) →
            (s.notices.length ≤ 30 → (s.post k o d).notices = s.notices ++ [⟨k, o, 1, d⟩])
            ∧ (s.notices.length = 31 →
                (s.post k o d).notices = s.notices ++ [⟨.noticeOverflow, .none, 1, k.code.setWidth 16⟩])))

/-- R127: ROSTER: BAD_ARG outside 1..62; for the own address SELF with the image's identifiers, the own interval, M and
the list a HELLO would carry; for a peer the entry, absent fields 0 with their flag clear; STATE before CONFIGURE. It
changes nothing. -/
def Obligations.RosterReports : Prop :=
  (∀ (s : State) (address : Byte), s.collecting = true → s.config = none →
    exec (.roster address) s = .next (s.answers [0x11]))
  ∧ ∀ (s : State) (c : Image) (address : Byte), s.collecting = true → s.config = some c →
    (¬(1 ≤ address.toNat ∧ address.toNat ≤ 62) → exec (.roster address) s = .next (s.answers [0x10]))
      ∧ (1 ≤ address.toNat → address.toNat ≤ 62 → addrOf address = addrOf c.address →
          exec (.roster address) s = .next (s.answers
            ([0x00, 4, 7] ++ be32 c.unit ++ be16 c.token ++ [c.presence] ++ be16 s.markNo
              ++ [byteOf s.ownAdverts.length] ++ s.ownAdverts.flatMap Advert.bytes)))
      ∧ (1 ≤ address.toNat → address.toNat ≤ 62 → addrOf address ≠ addrOf c.address →
          ∀ e : PeerEntry, e = s.peer (addrOf address) →
          exec (.roster address) s = .next (s.answers
            ([0x00, e.state.code, flagBit 0 e.identity.isSome ||| flagBit 1 e.interval.isSome ||| flagBit 2 e.mark.isSome]
              ++ (match e.identity with
                | some x => be32 x.unit ++ be16 x.token
                | none => [0, 0, 0, 0, 0, 0])
              ++ [match e.interval with
                | some v => v
                | none => 0]
              ++ (match e.mark with
                | some m => be16 m
                | none => [0, 0])
              ++ [byteOf e.adverts.length] ++ e.adverts.flatMap Advert.bytes)))

/-! ### Joining, leaving and marks -/

/-- R126, R134, R146 to R148, R150, R153, R158: JOIN from OFFLINE, or from MUTE by a line fault, enters LISTENING with
the streak 0 and the listen span started; from OFFLINE the receiving side starts afresh, from MUTE it is kept. LEAVE in
LISTENING or in MUTE by a line fault enters OFFLINE: the listen span stops, a HELLO not in flight is withdrawn, nothing
further is read, and every peer entry becomes UNKNOWN with its list cleared and its timer stopped. In every other line
state JOIN, and LEAVE outside ACTIVE, are answered STATE with no effect. -/
def Obligations.JoinAndLeaveOffline : Prop :=
  ∀ (s : State) (c : Image), s.collecting = true → s.config = some c →
    (s.line = .offline →
      exec .join s = .next
        { s with
          line := .listening
          streak := 0
          listenTimer := .running (3 * (c.presence.toNat * 10000))
          lineIdle := false
          assembling := false
          bits := { s.bits with recessive := 0, rx := none }
          txn := .responding [0x00] })
      ∧ (s.line = .mute .lineFault →
        exec .join s = .next
          { s with
            line := .listening
            streak := 0
            listenTimer := .running (3 * (c.presence.toNat * 10000))
            txn := .responding [0x00] })
      ∧ (s.line ≠ .offline → s.line ≠ .mute .lineFault → exec .join s = .next (s.answers [0x11]))
      ∧ (s.line = .listening ∨ s.line = .mute .lineFault →
        ∃ t : State, exec .leave s = .next t
          ∧ t = { s with
              line := .offline
              listenTimer := .stopped
              lineIdle := false
              assembling := false
              bits := { s.bits with recessive := 0, rx := none, left := true }
              offers := s.offers.filter fun o => o.inFlight || !o.item.sameResource (.hello .join)
              roster := t.roster
              txn := .responding [0x00, 0x01] }
          ∧ ∀ a : Addr, t.peer a =
              if (s.peer a).state = .self then s.peer a
              else { s.peer a with state := .unknown, adverts := [], timerOn := false })
      ∧ (s.line ≠ .listening → s.line ≠ .mute .lineFault → s.line ≠ .active →
          exec .leave s = .next (s.answers [0x11]))

/-- R25, R83, R93, R105, R123, R134, R150: LEAVE in ACTIVE enters DEPARTING, and every block acts on leaving ACTIVE: the
timers stop, every entry not in flight is withdrawn, the departure HELLO is admitted unless a HELLO is in flight, P is
cleared unless the MARK is in flight, every pending GONE range is cleared, every position not in flight becomes SENT
with its record, and every machine in DELAY, ASKING or ANSWER is PARKED. -/
def Obligations.LeaveActiveDeparts : Prop :=
  ∀ s : State, s.takes → s.line = .active → ListOk s → WaitOk s → MarkOfferOk s → AsksOk s →
    ∃ t : State, exec .leave s = .next t
      ∧ t = { s with
          line := .departing
          intervalTimer := .stopped
          presenceTimer := .stopped
          offers := t.offers
          markPending := s.markPending && s.offerInFlight .mark
          streams := t.streams
          subs := t.subs
          txn := .responding [0x00, 0x04] }
      ∧ t.offers = s.offers.filter Offer.inFlight
          ++ (if s.offerInFlight (.hello .departure) then [] else [freshOffer (.hello .departure)])
      ∧ (∀ n : StreamNo, (t.stream n).counter = (s.stream n).counter ∧ (t.stream n).gone = none
          ∧ (t.pub n).map (fun p => { p with ring := [] }) = (s.pub n).map (fun p => { p with ring := [] })
          ∧ (t.pub n).map Pub.handles = (s.pub n).map Pub.handles
          ∧ ∀ i : Nat, t.posOf n i =
              if s.offerInFlight (.fresh n i) then s.posOf n i else (s.posOf n i).toSent)
      ∧ ∀ h : SubHandle, t.sub h = (s.sub h).map fun w =>
          { w with
            repair :=
              if w.repair.state = .delay ∨ w.repair.state = .asking ∨ w.repair.state = .answer then
                { w.repair with state := .parked, timer := .stopped }
              else w.repair }

/-- R99, R100, R101, R102: in ACTIVE the MARK command, a MARKIN edge in the configured direction and the expiry of the
interval timer are triggers: with P clear, P is set and a MARK entry admitted last; with P set, nothing changes. The
command answers 0 or 1, and STATE outside ACTIVE; an edge outside ACTIVE, or in the other direction, is ignored; the
timer restarts at its expiry. A timer that is stopped does not expire (log entry 17). -/
def Obligations.TriggersRaiseOneMark : Prop :=
  (∀ s : State, s.takes → s.line = .active →
    (s.markPending = false → s.hasOffer .mark = false →
      exec .mark s = .next
        { s with
          markPending := true
          offers := s.offers ++ [freshOffer .mark]
          txn := .responding [0x00, 0x00] })
      ∧ (s.markPending = true → exec .mark s = .next (s.answers [0x00, 0x01])))
    ∧ (∀ s : State, s.takes → s.line ≠ .active → exec .mark s = .next (s.answers [0x11]))
    ∧ (∀ (s : State) (c : Image) (e : Edge), s.config = some c → s.line = .active →
        (c.pinEdge = 1 ∧ e = .rising ∨ c.pinEdge = 2 ∧ e = .falling) → s.markPending = false →
        s.hasOffer .mark = false →
        exec (.markinEdge e) s = .next { s with markPending := true, offers := s.offers ++ [freshOffer .mark] })
    ∧ (∀ (s : State) (e : Edge),
        (s.line ≠ .active ∨ s.markPending = true ∨ s.config = none
          ∨ ∃ c ∈ s.config, ¬(c.pinEdge = 1 ∧ e = .rising ∨ c.pinEdge = 2 ∧ e = .falling)) →
        exec (.markinEdge e) s = .next s)
    ∧ (∀ (s : State) (c : Image) (us : Nat), s.config = some c → s.intervalTimer = .running us →
        exec .intervalTimerExpiry s = .next
          { s with
            markPending := true
            offers := if s.markPending = false ∧ s.hasOffer .mark = false then s.offers ++ [freshOffer .mark]
              else s.offers
            intervalTimer := if c.interval = 0 then .stopped else .running (c.interval.toNat * 1000) })
    ∧ ∀ s : State, s.intervalTimer = .stopped → exec .intervalTimerExpiry s = .next s

/-! ### Publications -/

/-- R6, R12, R13: an OPEN_PUB that passes every check: the lowest R free slots are lent in order, all positions EMPTY,
the generation counter rises by one and is the record's generation, the record has the arguments and no seal, a capture
publication has an empty builder, and in ACTIVE a presence HELLO is admitted unless one is in the list. -/
def Obligations.OpenPubLends : Prop :=
  ∀ (s : State) (n : StreamNo) (source size start mask k : Byte) (d : Word16), s.takes →
    openPubInRange (byteOf n.val) source size start mask k d → s.pub n = none → size.toNat ≤ s.freeSlots.length →
    ∃ t : State, exec (.openPub (byteOf n.val) source size start mask k d) s = .next t
      ∧ t = { s with
          streams := t.streams
          freeSlots := s.freeSlots.drop size.toNat
          offers := if s.line = .active ∧ s.hasHello = false then s.offers ++ [freshOffer (.hello .presence)]
            else s.offers
          txn := .responding [0x00, (s.stream n).counter + 1] }
      ∧ t.stream n =
          { counter := (s.stream n).counter + 1
            gone := (s.stream n).gone
            pub := some
              { state := if start = 1 then .armed else .running
                source := if source = 0 then .capture else .host
                start := if start = 1 then .onMark else .immediate
                mask := mask
                k := if source = 0 then k.toNat else 0
                d := if source = 0 then d.toNat else 0
                gen := (s.stream n).counter + 1
                head := none
                ring := (s.freeSlots.take size.toNat).map fun x => ⟨x, .empty⟩
                sealedCount := 0
                resendCount := 0
                overrunFrames := 0
                backlogCount := 0
                builder := if source = 0 then some ⟨0, 0, [], none⟩ else none } }
      ∧ ∀ m : StreamNo, m ≠ n → t.stream m = s.stream m

/-- R12, R47: OPEN_PUB and OPEN_SUB are refused, with no other effect, by the first check that fails, in the order of
the rule: BAD_ARG, DUPLICATE, NO_ROOM. -/
def Obligations.OpenRefusals : Prop :=
  (∀ (s : State) (stream source size start mask k : Byte) (d : Word16), s.takes →
    (¬openPubInRange stream source size start mask k d →
      exec (.openPub stream source size start mask k d) s = .next (s.answers [0x10]))
      ∧ (openPubInRange stream source size start mask k d → ∀ n : StreamNo, n.val = stream.toNat →
          (s.pub n ≠ none → exec (.openPub stream source size start mask k d) s = .next (s.answers [0x14]))
          ∧ (s.pub n = none → s.freeSlots.length < size.toNat →
              exec (.openPub stream source size start mask k d) s = .next (s.answers [0x12]))))
    ∧ ∀ (s : State) (origin stream size policy start : Byte), s.takes →
      (¬openSubInRange s.ownAddr origin stream size policy start →
        exec (.openSub origin stream size policy start) s = .next (s.answers [0x10]))
        ∧ (openSubInRange s.ownAddr origin stream size policy start →
          ((∃ (h : SubHandle) (w : Sub), s.sub h = some w ∧ w.origin = addrOf origin ∧ w.stream.val = stream.toNat) →
            exec (.openSub origin stream size policy start) s = .next (s.answers [0x14]))
          ∧ ((∀ (h : SubHandle) (w : Sub), s.sub h = some w → w.origin = addrOf origin → w.stream.val ≠ stream.toNat) →
              (∀ h : SubHandle, s.handleInUse h = true) ∨ s.freeSlots.length < size.toNat →
              exec (.openSub origin stream size policy start) s = .next (s.answers [0x12])))

/-- R7, R15, R16: CLOSE_PUB. With no position in flight it answers "closed": the record is removed with its offers, its
slots join the free list in ascending order, and the counter and the pending GONE range are kept. With one in flight it
answers "closing": the other offers are withdrawn, their positions become SENT, the builder is discarded and the ring
stays lent. In ACTIVE either admits a presence HELLO unless one is in the list. -/
def Obligations.ClosePubReturns : Prop :=
  ∀ (s : State) (n : StreamNo), s.takes →
    (∀ p : Pub, s.pub n = some p →
      (p.state ≠ .closing → s.dataInFlight n = false →
        ∃ t : State, exec (.closePub (byteOf n.val)) s = .next t
          ∧ t = { s with
              streams := t.streams
              freeSlots := t.freeSlots
              offers := (s.offers.filter fun o => !o.item.isDataOf n)
                ++ (if s.line = .active ∧ s.hasHello = false then [freshOffer (.hello .presence)] else [])
              txn := .responding [0x00, 0] }
          ∧ t.stream n = { s.stream n with pub := none }
          ∧ (∀ m : StreamNo, m ≠ n → t.stream m = s.stream m)
          ∧ t.freeSlots.Perm (p.handles ++ s.freeSlots)
          ∧ (s.freeSlots.Pairwise (· ≤ ·) → t.freeSlots.Pairwise (· ≤ ·)))
        ∧ (p.state ≠ .closing → s.dataInFlight n = true →
          ∃ (t : State) (v : Pub), exec (.closePub (byteOf n.val)) s = .next t
            ∧ t = { s with
                streams := t.streams
                offers := (s.offers.filter fun o => o.inFlight || !o.item.isDataOf n)
                  ++ (if s.line = .active ∧ s.hasHello = false then [freshOffer (.hello .presence)] else [])
                txn := .responding [0x00, 1] }
            ∧ t.stream n = { s.stream n with pub := some v }
            ∧ (∀ m : StreamNo, m ≠ n → t.stream m = s.stream m)
            ∧ v = { p with state := .closing, builder := none, ring := v.ring }
            ∧ v.handles = p.handles
            ∧ ∀ i : Nat, v.posAt i = if s.offerInFlight (.fresh n i) then p.posAt i else (p.posAt i).toSent)
        ∧ (p.state = .closing → exec (.closePub (byteOf n.val)) s = .next (s.answers [0x00, 1])))
      ∧ (s.pub n = none → exec (.closePub (byteOf n.val)) s = .next (s.answers [0x15]))
      ∧ ∀ x : Byte, 15 < x.toNat → exec (.closePub x) s = .next (s.answers [0x10])

/-- R20, R21, R22, R26: PUT. Refused in the order of R26; a backlog overrun is answered BACKLOG and counted; otherwise
the record, stamped with M and F, enters the position after the head, QUEUED with a fresh DATA entry in ACTIVE and SENT
in any other line state, and the new sequence is answered. A PUT whose samples have not all arrived is not taken yet
(log entry 14). -/
def Obligations.PutSeals : Prop :=
  (∀ (s : State) (x count : Byte) (samples : List Sample), s.takes →
    ((1 ≤ count.toNat ∧ count.toNat ≤ 32 ∧ samples.length < count.toNat) →
      exec (.put x count samples) s = .next s)
    ∧ ((15 < x.toNat ∧ 1 ≤ count.toNat ∧ count.toNat ≤ samples.length) ∨ ¬(1 ≤ count.toNat ∧ count.toNat ≤ 32) →
      exec (.put x count samples) s = .next (s.answers [0x10])))
  ∧ ∀ (s : State) (n : StreamNo) (count : Byte) (samples : List Sample), s.takes → 1 ≤ count.toNat → count.toNat ≤ 32 →
    samples.length = count.toNat →
    (s.pub n = none → exec (.put (byteOf n.val) count samples) s = .next (s.answers [0x15]))
      ∧ ∀ p : Pub, s.pub n = some p →
        (p.source = .capture → exec (.put (byteOf n.val) count samples) s = .next (s.answers [0x10]))
          ∧ (p.source = .host → p.state ≠ .running →
              exec (.put (byteOf n.val) count samples) s = .next (s.answers [0x11]))
          ∧ (p.source = .host → p.state = .running →
            ∀ (i : Nat) (q : Seq),
              (p.head = none → i = 0 ∧ q = 0) →
              (∀ t : Head, p.head = some t → i = (t.pos + 1) % p.size ∧ q = t.last + 1) →
              ((p.posAt i).offered = true →
                ∃ t : State, exec (.put (byteOf n.val) count samples) s = .next t
                  ∧ t = { s with streams := t.streams, txn := .responding [0x02] }
                  ∧ t.stream n =
                      { s.stream n with pub := some { p with backlogCount := satAdd p.backlogCount 1 } }
                  ∧ ∀ m : StreamNo, m ≠ n → t.stream m = s.stream m)
              ∧ ((p.posAt i).offered = false → s.hasOffer (.fresh n i) = false →
                ∃ t : State, exec (.put (byteOf n.val) count samples) s = .next t
                  ∧ t = { s with
                      streams := t.streams
                      offers := if s.line = .active then s.offers ++ [freshOffer (.fresh n i)] else s.offers
                      txn := .responding (0x00 :: be16 q) }
                  ∧ t.stream n =
                      { s.stream n with
                        pub := some
                          { p with
                            head := some ⟨q, i⟩
                            sealedCount := satAdd p.sealedCount 1
                            ring := p.ring.modify i fun x =>
                              { x with
                                state :=
                                  if s.line = .active then
                                    .queued ⟨s.ownAddr, n, p.gen, q, s.markNo, s.frameOffset, 0, 0, false, false, true,
                                      false, samples⟩
                                  else
                                    .sent ⟨s.ownAddr, n, p.gen, q, s.markNo, s.frameOffset, 0, 0, false, false, true,
                                      false, samples⟩ } } }
                  ∧ ∀ m : StreamNo, m ≠ n → t.stream m = s.stream m))

/-- R28, R61, R181: PUB_STATUS answers 32 bytes for every stream number and SUB_STATUS 28 + t for an open handle, with
the fields of their tables; neither changes anything. -/
def Obligations.StatusOfPubsAndSubs : Prop :=
  (∀ (s : State) (n : StreamNo), s.takes →
    ∃ bytes : List Byte, exec (.pubStatus (byteOf n.val)) s = .next (s.answers (0x00 :: bytes)) ∧ bytes.length = 32
      ∧ bytes.take 8 =
          [match s.pub n with
            | some p => p.state.code
            | none => 0,
            (s.stream n).counter,
            flagBit 0 (s.stream n).gone.isSome ||| flagBit 1 ((s.pub n).bind Pub.head).isNone
              ||| flagBit 2 ((s.pub n).bind Pub.oldest).isNone]
          ++ (match (s.stream n).gone with
            | some g => g.gen :: (be16 g.first ++ be16 g.last)
            | none => [0, 0, 0, 0, 0])
      ∧ bytes.drop 8 =
          match s.pub n with
          | some p =>
            [p.source.code, byteOf p.size, p.start.code, p.mask, byteOf p.k] ++ be16 (word16Of p.d) ++ [p.gen]
              ++ be16 (match p.head with
                | some t => t.last
                | none => 0)
              ++ be16 (match p.oldest with
                | some o => o
                | none => 0)
              ++ [byteOf (p.ring.countP fun x => x.state.isEmpty), byteOf (p.ring.countP fun x => x.state.isQueued),
                byteOf (p.ring.countP fun x => x.state.isSent), byteOf (p.ring.countP fun x => x.state.isResend)]
              ++ be16 p.sealedCount ++ be16 p.resendCount ++ be16 p.overrunFrames ++ be16 p.backlogCount
          | none => List.replicate 24 0)
    ∧ (∀ (s : State) (h : SubHandle) (w : Sub), s.takes → s.sub h = some w →
      exec (.subStatus (byteOf h.val)) s = .next (s.answers
        ([0x00, w.origin.setWidth 8, byteOf w.stream.val, byteOf w.size, w.policy.code, w.start.code, w.state.code]
          ++ (match w.point with
            | some q => [1, q.gen] ++ be16 q.next
            | none => [0, 0, 0, 0])
          ++ [byteOf w.p, byteOf w.b] ++ be16 (BitVec.ofInt 16 w.h)
          ++ [byteOf (w.count SlotState.isFree), byteOf (w.count SlotState.isHeld), byteOf (w.count SlotState.isReady),
            byteOf (w.count SlotState.isLost), byteOf (w.count SlotState.isTaken)]
          ++ be16 w.delivered ++ be16 w.lost ++ be16 w.discarded
          ++ [w.repair.state.code, byteOf w.repair.attempts, byteOf w.takenHandles.length]
          ++ w.takenHandles.map byteOf)))
    ∧ (∀ (s : State) (h : SubHandle), s.takes → s.sub h = none →
        exec (.subStatus (byteOf h.val)) s = .next (s.answers [0x15]))
    ∧ ∀ (s : State) (x : Byte), s.takes →
        (15 < x.toNat → exec (.pubStatus x) s = .next (s.answers [0x10]))
          ∧ (31 < x.toNat → exec (.subStatus x) s = .next (s.answers [0x10]))

/-! ### Subscriptions: the host's side -/

/-- R6, R48, R67, R75: an OPEN_SUB that passes every check of R47: the lowest S free slots are lent in order, all FREE;
the lowest handle not in use is answered; the record is WAITING without a point, or, when the roster holds an
advertisement of the stream, RUNNING with G, N and h set from it, its machine in DELAY (PARKED outside ACTIVE) exactly
when there is a hole. No notice is posted and no offer admitted. -/
def Obligations.OpenSubStarts : Prop :=
  ∀ (s : State) (origin stream size policy start : Byte) (n : StreamNo) (h : SubHandle), s.takes →
    openSubInRange s.ownAddr origin stream size policy start → n.val = stream.toNat →
    (∀ (h' : SubHandle) (w : Sub), s.sub h' = some w → ¬(w.origin = addrOf origin ∧ w.stream = n)) →
    s.handleInUse h = false → (∀ h' : SubHandle, h' < h → s.handleInUse h' = true) →
    size.toNat ≤ s.freeSlots.length →
    ∃ (t : State) (v : Sub), exec (.openSub origin stream size policy start) s = .next t
      ∧ t = { s with
          subs := t.subs
          freeSlots := s.freeSlots.drop size.toNat
          txn := .responding [0x00, byteOf h.val] }
      ∧ t.sub h = some v
      ∧ (∀ h' : SubHandle, h' ≠ h → t.sub h' = s.sub h')
      ∧ v = { origin := addrOf origin
              stream := n
              slots := (s.freeSlots.take size.toNat).map fun x => ⟨x, .free⟩
              policy := if policy = 0 then .fill else if policy = 1 then .skip else .stall
              start := if start = 0 then .live else .history
              state := if ((s.peer (addrOf origin)).advertOf n).isSome then .running else .waiting
              point := v.point
              p := 0
              b := 0
              h := v.h
              repair := s.machineFor (decide (0 ≤ v.h)) 0
              delivered := 0
              lost := 0
              discarded := 0 }
      ∧ match (s.peer (addrOf origin)).advertOf n with
        | none => v.point = none ∧ v.h = -1
        | some x =>
          match x.range with
          | none => v.point = some ⟨x.gen, 0⟩ ∧ v.h = -1
          | some (o, l) =>
            if start = 0 then v.point = some ⟨x.gen, l + 1⟩ ∧ v.h = -1
            else v.point = some ⟨x.gen, o⟩ ∧ v.h = (dist o l : Int)

/-- R7, R49: CLOSE_SUB in every state of the subscription: its ASK is withdrawn unless in flight, its slots join the
free list in ascending order, the record is removed, and the handle stays in use exactly while its ASK is in flight.
BAD_ARG outside 0..31 and NO_SUCH where no subscription is open. -/
def Obligations.CloseSubReturns : Prop :=
  (∀ (s : State) (h : SubHandle) (w : Sub), s.takes → s.sub h = some w →
    ∃ t : State, exec (.closeSub (byteOf h.val)) s = .next t
      ∧ t = { s with
          subs := t.subs
          freeSlots := t.freeSlots
          offers := s.offers.filter fun o => o.inFlight || decide (o.item ≠ .ask h)
          txn := .responding [0x00] }
      ∧ t.sub h = none
      ∧ (∀ h' : SubHandle, h' ≠ h → t.sub h' = s.sub h')
      ∧ t.freeSlots.Perm (w.handles ++ s.freeSlots)
      ∧ (s.freeSlots.Pairwise (· ≤ ·) → t.freeSlots.Pairwise (· ≤ ·))
      ∧ t.handleInUse h = s.offerInFlight (.ask h))
    ∧ (∀ (s : State) (h : SubHandle), s.takes → s.sub h = none →
        exec (.closeSub (byteOf h.val)) s = .next (s.answers [0x15]))
    ∧ ∀ (s : State) (x : Byte), s.takes → 31 < x.toNat → exec (.closeSub x) s = .next (s.answers [0x10])

/-- R57, R181: TAKE examines the behind positions from the tail towards p: the first slot found READY or LOST becomes
TAKEN and its handle is answered with the header of its record; with none the answer is EMPTY with no effect. TAKE moves
neither p, b, N nor h. -/
def Obligations.TakeOldest : Prop :=
  (∀ (s : State) (h : SubHandle) (w : Sub), s.takes → s.sub h = some w →
    (∀ (j i : Nat) (r : Record), j < w.b → i = (w.tail + j) % w.size → (w.at i = .ready r ∨ w.at i = .lost r) →
      (∀ j' : Nat, j' < j → (w.at ((w.tail + j') % w.size)).isWaiting = false) →
      ∃ t : State, exec (.take (byteOf h.val)) s = .next t
        ∧ t = { s with
            subs := t.subs
            txn := .responding ([0x00, byteOf (w.handleAt i), r.origin.setWidth 8, byteOf r.stream.val, r.gen]
              ++ be16 r.seq ++ be16 r.mark ++ be16 r.offset
              ++ [r.mask, r.frames, byteOf r.samples.length,
                flagBit 3 r.resent ||| flagBit 2 r.short ||| flagBit 1 r.hostData ||| flagBit 0 r.lost]) }
        ∧ t.sub h = some { w with slots := w.slots.modify i fun x => { x with state := .taken r } }
        ∧ ∀ h' : SubHandle, h' ≠ h → t.sub h' = s.sub h')
      ∧ ((∀ j : Nat, j < w.b → (w.at ((w.tail + j) % w.size)).isWaiting = false) →
          exec (.take (byteOf h.val)) s = .next (s.answers [0x01])))
    ∧ (∀ (s : State) (h : SubHandle), s.takes → s.sub h = none →
        exec (.take (byteOf h.val)) s = .next (s.answers [0x15]))
    ∧ ∀ (s : State) (x : Byte), s.takes → 31 < x.toNat → exec (.take x) s = .next (s.answers [0x10])

/-- R5, R58, R59: READ and RELEASE of a slot handle. A handle whose slot is TAKEN in an open subscription is owned: READ
answers the samples asked for, or BAD_ARG when they reach past the record, and changes nothing; RELEASE makes the slot
FREE and then moves the tail over the FREE behind positions, as far as they go. Any other handle is NOT_OWNED, after the
check of READ's ranges. -/
def Obligations.ReadAndRelease : Prop :=
  (∀ (s : State) (h : SubHandle) (w : Sub) (i : Nat) (x : Nat) (r : Record), s.takes → SlotsOk s → WindowsOk s →
    s.sub h = some w → w.slots[i]? = some ⟨x, .taken r⟩ →
    (∀ first count : Byte, first.toNat ≤ 31 → 1 ≤ count.toNat → count.toNat ≤ 32 →
      (first.toNat + count.toNat ≤ r.samples.length →
        exec (.read (byteOf x) first count) s = .next (s.answers
          (0x00 :: ((r.samples.drop first.toNat).take count.toNat).flatMap be16)))
        ∧ (r.samples.length < first.toNat + count.toNat →
          exec (.read (byteOf x) first count) s = .next (s.answers [0x10])))
      ∧ ∃ (t : State) (v : Sub) (j : Nat), exec (.release (byteOf x)) s = .next t
        ∧ t = { s with subs := t.subs, txn := .responding [0x00] }
        ∧ t.sub h = some v
        ∧ (∀ h' : SubHandle, h' ≠ h → t.sub h' = s.sub h')
        ∧ j ≤ w.b
        ∧ v = { w with slots := w.slots.modify i fun y => { y with state := .free }, b := w.b - j }
        ∧ (∀ m : Nat, m < j → v.at ((w.tail + m) % w.size) = .free)
        ∧ (v.b = 0 ∨ (v.at v.tail).isFree = false))
    ∧ (∀ (s : State) (x : Byte), s.takes →
      (∀ (h : SubHandle) (w : Sub) (i : Nat) (r : Record), s.sub h = some w → w.slots[i]? ≠ some ⟨x.toNat, .taken r⟩) →
      exec (.release x) s = .next (s.answers [0x13])
        ∧ ∀ first count : Byte, first.toNat ≤ 31 → 1 ≤ count.toNat → count.toNat ≤ 32 →
            exec (.read x first count) s = .next (s.answers [0x13]))
    ∧ ∀ (s : State) (x first count : Byte), s.takes →
        ¬(first.toNat ≤ 31 ∧ 1 ≤ count.toNat ∧ count.toNat ≤ 32) →
        exec (.read x first count) s = .next (s.answers [0x10])

/-- R54, R56, R63, R64, R66, R81: RESUME outside STALLED is answered STATE with no effect. In STALLED it performs the
SKIP step once on N, posts STREAM_LOSS, the state becomes RUNNING, the machine starts again by the holes left with
attempts 0, and STREAM_READY follows when the window had no READY or LOST slot and now has one. That RESUME posts one
STREAM_READY, judged at its end and not after the SKIP step within it, is the model's choice (log entry 6). -/
def Obligations.ResumeSkips : Prop :=
  (∀ (s : State) (h : SubHandle) (w : Sub), s.takes → s.sub h = some w → w.state ≠ .stalled →
    exec (.resume (byteOf h.val)) s = .next (s.answers [0x11]))
    ∧ (∀ (s : State) (h : SubHandle) (w : Sub) (q : Point), s.takes → s.sub h = some w → w.state = .stalled →
        w.point = some q →
        ∃ (t : State) (v : Sub), exec (.resume (byteOf h.val)) s = .next t
          ∧ v = { w.giveUp q false with
              state := .running
              repair := s.machineFor (decide (0 ≤ (w.giveUp q false).h)) 0 }
          ∧ t = { s with
              subs := t.subs
              offers := s.offers.filter fun o => o.inFlight || decide (o.item ≠ .ask h)
              notices :=
                if w.waiting = 0 ∧ 0 < v.waiting then
                  postNotice (postNotice s.notices .streamLoss (.sub h) q.next) .streamReady (.sub h)
                    (word16Of v.waiting)
                else postNotice s.notices .streamLoss (.sub h) q.next
              txn := .responding [0x00] }
          ∧ t.sub h = some v
          ∧ ∀ h' : SubHandle, h' ≠ h → t.sub h' = s.sub h')
    ∧ (∀ (s : State) (h : SubHandle), s.takes → s.sub h = none →
        exec (.resume (byteOf h.val)) s = .next (s.answers [0x15]))
    ∧ ∀ (s : State) (x : Byte), s.takes → 31 < x.toNat → exec (.resume x) s = .next (s.answers [0x10])

/-! ### The window by itself -/

/-- R54, R62, R63, R64: the delivery run turns HELD slots from p on READY for as long as they go, with N, p, b, h and
the delivered count; FILL writes a LOST placeholder at p and goes on, SKIP leaves p FREE and moves the tail over FREE
positions, and with b = S either gives up N without a position. Each abandon step counts one lost. -/
def Obligations.DeliveryAndAbandonSteps : Prop :=
  (∀ w : Sub, w.p < w.size →
    ∃ j : Nat, j ≤ w.size
      ∧ w.deliveryRun =
        { w with
          slots := w.deliveryRun.slots
          point := w.point.map fun q => { q with next := q.next + word16Of j }
          p := (w.p + j) % w.size
          b := w.b + j
          h := if j = 0 then w.h else max (w.h - j) (-1)
          delivered := satAdd w.delivered j }
      ∧ w.deliveryRun.handles = w.handles
      ∧ (∀ m : Nat, m < j →
          ∃ r : Record, w.at ((w.p + m) % w.size) = .held r ∧ w.deliveryRun.at ((w.p + m) % w.size) = .ready r)
      ∧ (∀ m : Nat, j ≤ m → m < w.size → w.deliveryRun.at ((w.p + m) % w.size) = w.at ((w.p + m) % w.size))
      ∧ (w.deliveryRun.at w.deliveryRun.p).isHeld = false)
    ∧ (∀ (w : Sub) (q : Point), w.b < w.size →
        w.giveUp q true =
          Sub.deliveryRun
            { w with
              slots := w.slots.modify w.p fun x =>
                { x with
                  state := .lost ⟨w.origin, w.stream, q.gen, q.next, 0, 0, 0, 0, false, false, false, true, []⟩ }
              point := w.point.map fun q => { q with next := q.next + 1 }
              p := (w.p + 1) % w.size
              b := w.b + 1
              h := max (w.h - 1) (-1)
              lost := satAdd w.lost 1 })
    ∧ (∀ (w : Sub) (q : Point), w.p < w.size → w.b < w.size →
        ∃ (v : Sub) (j : Nat), w.giveUp q false = v.deliveryRun
          ∧ j ≤ w.b + 1
          ∧ v = { w with
              point := w.point.map fun q => { q with next := q.next + 1 }
              p := (w.p + 1) % w.size
              b := w.b + 1 - j
              h := max (w.h - 1) (-1)
              lost := satAdd w.lost 1 }
          ∧ (∀ m : Nat, m < j → w.at ((w.tail + m) % w.size) = .free)
          ∧ (v.b = 0 ∨ (v.at v.tail).isFree = false))
    ∧ ∀ (w : Sub) (q : Point) (fill : Bool), w.size ≤ w.b →
        w.giveUp q fill =
          { w with
            point := w.point.map fun q => { q with next := q.next + 1 }
            h := max (w.h - 1) (-1)
            lost := satAdd w.lost 1 }

/-! ### Capture -/

/-- R20 to R22, R33 to R35, R38, R39, R183: a falling FSYNC starts a frame only in a configured part, and discards one
in progress with its bits. A rising edge of FCLK that reads FSYNC low after high sees the fall and samples no bit; every
other one adds the bit of FDAT to a frame in progress, and the 128th bit makes the frame arrive, the first bit its most
significant; with no frame in progress the bit is ignored. A frame arrival without a started frame changes nothing.
Otherwise F rises by one (to 65535 at most), and each RUNNING capture publication in ascending order takes the frame
when its phase is 0, advances its phase, and at k frames seals the parcel (or, where the target position still has an
offer, counts the frames as overrun and posts PUB_OVERRUN) and restarts empty. That a fall counts when an edge of FCLK
sees it, what FRAME_START leaves as the level last read, and that the port reads nothing in a reset are log entry 23;
that the row of an arrival carries its bits is log entry 16. -/
def Obligations.FramesFillBuilders : Prop :=
  (∀ s : State, s.config.isSome = true →
    exec .frameStart s = .next { s with frameInProgress := true, frameBits := [], fsyncHigh := false })
    ∧ (∀ s : State, s.config = none → exec .frameStart s = .next { s with fsyncHigh := false })
    ∧ (∀ (s : State) (fsync fdat : Bool), s.inReset = true → tick (.fclkRise fsync fdat) s = .next s)
    ∧ (∀ (s : State) (fdat : Bool), s.inReset = false → s.fsyncHigh = true →
        tick (.fclkRise false fdat) s = exec .frameStart s)
    ∧ (∀ (s : State) (fsync fdat : Bool), s.inReset = false → s.fsyncHigh = false ∨ fsync = true →
        (s.frameInProgress = false → tick (.fclkRise fsync fdat) s = .next { s with fsyncHigh := fsync })
        ∧ (s.frameInProgress = true → s.frameBits.length < 127 →
          tick (.fclkRise fsync fdat) s = .next { s with fsyncHigh := fsync, frameBits := s.frameBits ++ [fdat] })
        ∧ ∀ bits : BitVec 128, s.frameInProgress = true → s.frameBits.length = 127 →
          (∀ i : Nat, i < 128 → (s.frameBits ++ [fdat])[i]? = some (bits.getMsbD i)) →
          tick (.fclkRise fsync fdat) s = exec (.frameArrival bits) { s with fsyncHigh := fsync })
    ∧ (∀ (s : State) (bits : BitVec 128), (s.config = none ∨ s.frameInProgress = false) →
        exec (.frameArrival bits) s = .next s)
    ∧ ∀ (s : State) (bits : BitVec 128), s.config.isSome = true → s.frameInProgress = true → RingsOk s → PositionsOk s →
        ∃ t : State, exec (.frameArrival bits) s = .next t
          ∧ t = { s with
              streams := t.streams
              frameOffset := satAdd s.frameOffset 1
              frameInProgress := false
              frameBits := []
              offers := s.offers ++ s.sealOffers s.frameDue
              notices := s.overrunNotices s.frameDue fun b => b.collected + 1 }
          ∧ ∀ n : StreamNo, t.stream n =
              { s.stream n with
                pub := (s.pub n).map fun p =>
                  match s.frameDue n with
                  | some (_, b) =>
                    let empty : Builder := ⟨if 1 < p.d then 1 else 0, 0, [], none⟩
                    let samples := b.samples ++ (channels p.mask).map fun ch => bits.extractLsb' (112 - 16 * ch) 16
                    if p.backlogged then
                      { p with overrunFrames := satAdd p.overrunFrames p.k, builder := some empty }
                    else
                      { p.sealed s.line
                          ⟨s.ownAddr, n, p.gen, p.nextSeq, (b.stamps.getD (s.markNo, s.frameOffset)).1,
                            (b.stamps.getD (s.markNo, s.frameOffset)).2, p.mask, byteOf p.k, false, false, false, false,
                            samples⟩ with
                        builder := some empty }
                  | none =>
                    if p.state = .running then
                      { p with
                        builder := p.builder.map fun b =>
                          if b.phase = 0 then
                            { phase := if 1 < p.d then 1 else 0
                              collected := b.collected + 1
                              samples := b.samples ++ (channels p.mask).map fun ch =>
                                bits.extractLsb' (112 - 16 * ch) 16
                              stamps := if b.collected = 0 then some (s.markNo, s.frameOffset) else b.stamps }
                          else { b with phase := if b.phase + 1 < p.d then b.phase + 1 else 0 } }
                    else p }

/-- R43: between two adoptions a capture publication that was RUNNING at the first takes exactly the frames whose offset
is a multiple of d. After m frames from the adoption its phase is m mod d, it has taken m/d of them rounded up, and the
parcel it is building has its first stamps at the offset j·k·d and holds the masked samples of the frames from there on.
-/
def Obligations.CaptureGrid : Prop :=
  ∀ (s : State) (n : StreamNo) (p : Pub) (bits : Nat → BitVec 128) (m : Nat), s.config.isSome = true →
    s.frameOffset = 0 → s.pub n = some p → p.state = .running → p.source = .capture →
    p.builder = some ⟨0, 0, [], none⟩ → 1 ≤ p.k → 1 ≤ p.d → m ≤ 65535 →
    (s.feed bits m).frameOffset = word16Of m
      ∧ ∃ v : Pub, (s.feed bits m).pub n = some v
        ∧ v.builder = some
          { phase := m % p.d
            collected := (m + p.d - 1) / p.d % p.k
            samples := (List.range ((m + p.d - 1) / p.d % p.k)).flatMap fun i =>
              (channels p.mask).map fun ch =>
                (bits (((m + p.d - 1) / p.d / p.k * p.k + i) * p.d)).extractLsb' (112 - 16 * ch) 16
            stamps :=
              if (m + p.d - 1) / p.d % p.k = 0 then none
              else some (s.markNo, word16Of ((m + p.d - 1) / p.d / p.k * p.k * p.d)) }

/-- R14, R20 to R22, R41, R106, R107, R110: a peer's MARK in ACTIVE, DEPARTING or MUTE. At a distance of 1..32767 it is
adopted, whole: M, the last-mark record with the span F, F to 0, P cleared with its entry, the interval timer restarted
in ACTIVE, MARK_ADOPTED, and MARK_GAP at a distance of 2 or more. Every builder that holds frames is sealed short: a
record with SHORT set, the frames collected, and the first stamps, which are those of the mark it was built under; or,
where the target position still has an offer, its frames are counted as overrun and PUB_OVERRUN is posted. Every builder
is then empty with phase 0 and every ARMED publication RUNNING. At any other distance MARK_STALE is posted and nothing
else changes. -/
def Obligations.PeerMarkAdopted : Prop :=
  (∀ (s : State) (hd : Header) (m : MarkNo), s.hears hd →
    (s.line = .active ∨ s.line = .departing ∨ ∃ c, s.line = .mute c) →
    ¬(1 ≤ dist s.markNo m ∧ dist s.markNo m ≤ 32767) →
    exec (.markAccepted hd m) s = .next
      { s.heard with
        notices := postNotice s.notices .markStale (.address hd.origin) m })
  ∧ ∀ (s : State) (hd : Header) (m : MarkNo), s.hears hd →
    (s.line = .active ∨ s.line = .departing ∨ ∃ c, s.line = .mute c) → 1 ≤ dist s.markNo m → dist s.markNo m ≤ 32767 →
    RingsOk s → PositionsOk s → MarkOfferOk s →
    ∃ t : State, exec (.markAccepted hd m) s = .next t
      ∧ t = { s.heard with
          markNo := m
          lastMark := some ⟨m, .peer, hd.origin, s.frameOffset⟩
          frameOffset := 0
          markPending := false
          streams := t.streams
          offers := (s.offers.filter fun o => decide (o.item ≠ .mark)) ++ s.sealOffers s.shortDue
          intervalTimer := if s.line = .active then s.intervalStart else s.intervalTimer
          notices := t.notices }
      ∧ t.notices =
          (if 2 ≤ dist s.markNo m then
            postNotice (postNotice (s.overrunNotices s.shortDue Builder.collected) .markAdopted .none m) .markGap .none
              (word16Of (dist s.markNo m - 1))
          else postNotice (s.overrunNotices s.shortDue Builder.collected) .markAdopted .none m)
      ∧ ∀ n : StreamNo, t.stream n =
          { s.stream n with
            pub := (s.pub n).map fun p =>
              match s.shortDue n with
              | some (_, b) =>
                if p.backlogged then
                  { p with overrunFrames := satAdd p.overrunFrames b.collected, builder := some ⟨0, 0, [], none⟩ }
                else
                  { p.sealed s.line
                      ⟨s.ownAddr, n, p.gen, p.nextSeq, (b.stamps.getD (0, 0)).1, (b.stamps.getD (0, 0)).2, p.mask,
                        byteOf b.collected, false, true, false, false, b.samples⟩ with
                    builder := some ⟨0, 0, [], none⟩ }
              | none =>
                { p with
                  state := if p.state = .armed then .running else p.state
                  builder := p.builder.map fun b => { b with phase := 0 } } }

/-! ### Timers of repair and presence -/

/-- R62 to R65, R74, R76, R79, R80: the ask-delay timer in DELAY: no hole leads to IDLE; a hole with b = S restarts it;
a hole with room leads to ASKING with an ASK entry. The answer-wait timer in ANSWER: no hole leads to IDLE; below the
ask attempts, to DELAY; at the ask attempts the hole at N is given up by the gap policy. A timer that does not run does
not expire (log entry 17). An ASK of an earlier ASKING still in the list is kept as the machine's own (log entry 8). -/
def Obligations.RepairTimerExpiries : Prop :=
  (∀ (s : State) (c : Image) (h : SubHandle) (w : Sub), s.config = some c → s.sub h = some w →
    (∀ us : Nat, w.repair.state = .delay → w.repair.timer = .askDelay us →
      ∃ t : State, exec (.askDelayExpiry h) s = .next t
        ∧ t = { s with
            subs := t.subs
            offers :=
              if w.hasHole = true ∧ w.b < w.size ∧ s.hasOffer (.ask h) = false then s.offers ++ [freshOffer (.ask h)]
              else s.offers }
        ∧ t.sub h = some
          { w with
            repair :=
              if w.hasHole = false then ⟨.idle, 0, .stopped⟩
              else if w.size ≤ w.b then
                ⟨.delay, w.repair.attempts, .askDelay (c.askBase.toNat * 100 + c.address.toNat * (c.stagger.toNat * 10))⟩
              else ⟨.asking, w.repair.attempts, .stopped⟩ }
        ∧ ∀ h' : SubHandle, h' ≠ h → t.sub h' = s.sub h')
      ∧ (∀ us : Nat, w.repair.state = .answer → w.repair.timer = .answerWait us →
        (w.hasHole = false →
          ∃ t : State, exec (.answerWaitExpiry h) s = .next t
            ∧ s.onlySub t h { w with repair := ⟨.idle, 0, .stopped⟩ })
        ∧ (w.hasHole = true → w.repair.attempts < c.attempts.toNat →
          ∃ t : State, exec (.answerWaitExpiry h) s = .next t
            ∧ s.onlySub t h
              { w with
                repair := ⟨.delay, w.repair.attempts,
                  .askDelay (c.askBase.toNat * 100 + c.address.toNat * (c.stagger.toNat * 10))⟩ })
        ∧ (w.hasHole = true → c.attempts.toNat ≤ w.repair.attempts → w.state = .running →
          ∀ q : Point, w.point = some q →
          (w.policy ≠ .stall →
            ∃ (t : State) (v : Sub), exec (.answerWaitExpiry h) s = .next t
              ∧ v = { w.giveUp q (decide (w.policy = .fill)) with repair := v.repair }
              ∧ v.repair =
                  (if v.hasHole = true then
                    ⟨.delay, 0, .askDelay (c.askBase.toNat * 100 + c.address.toNat * (c.stagger.toNat * 10))⟩
                  else ⟨.idle, 0, .stopped⟩)
              ∧ s.onlySub { t with notices := s.notices } h v
              ∧ t.notices =
                (if w.waiting = 0 ∧ 0 < v.waiting then
                  postNotice (postNotice s.notices .streamLoss (.sub h) q.next) .streamReady (.sub h)
                    (word16Of v.waiting)
                else postNotice s.notices .streamLoss (.sub h) q.next))
          ∧ (w.policy = .stall →
            ∃ t : State, exec (.answerWaitExpiry h) s = .next t
              ∧ t = { s with
                  subs := t.subs
                  offers := s.offers.filter fun o => o.inFlight || decide (o.item ≠ .ask h)
                  notices := postNotice s.notices .streamStalled (.sub h) q.next }
              ∧ t.sub h = some { w with state := .stalled, repair := ⟨.halted, 0, .stopped⟩ }
              ∧ ∀ h' : SubHandle, h' ≠ h → t.sub h' = s.sub h'))))
    ∧ ∀ (s : State) (h : SubHandle),
        ((∀ w ∈ s.sub h, ∀ us : Nat, ¬(w.repair.state = .delay ∧ w.repair.timer = .askDelay us)) →
          exec (.askDelayExpiry h) s = .next s)
        ∧ ((∀ w ∈ s.sub h, ∀ us : Nat, ¬(w.repair.state = .answer ∧ w.repair.timer = .answerWait us)) →
          exec (.answerWaitExpiry h) s = .next s)

/-- R122, R123, R124, R148: the presence timer's expiry admits a presence HELLO unless one is in the list and restarts
the timer; the listen span's admits the join HELLO; the first silence threshold takes a PRESENT entry to SILENT with
PEER_SILENT and the effective interval. A timer that does not run does not expire (log entry 17). -/
def Obligations.PresenceAndListenExpiries : Prop :=
  (∀ (s : State) (c : Image) (us : Nat), s.config = some c → s.presenceTimer = .running us →
    exec .presenceTimerExpiry s = .next
      { s with
        offers := if s.hasHello then s.offers else s.offers ++ [freshOffer (.hello .presence)]
        presenceTimer := .running (c.presence.toNat * 10000) })
    ∧ (∀ s : State, s.presenceTimer = .stopped → exec .presenceTimerExpiry s = .next s)
    ∧ (∀ (s : State) (us : Nat), s.line = .listening → s.listenTimer = .running us →
        exec .listenSpanExpiry s = .next
          { s with
            offers := if s.hasHello then s.offers else s.offers ++ [freshOffer (.hello .join)]
            listenTimer := .stopped })
    ∧ (∀ s : State, s.line ≠ .listening ∨ s.listenTimer = .stopped → exec .listenSpanExpiry s = .next s)
    ∧ ∀ (s : State) (c : Image) (a : Addr), s.config = some c → 1 ≤ a.toNat → a.toNat ≤ 62 →
        ((s.peer a).state = .present → (s.peer a).timerOn = true →
          ∃ t : State, exec (.silenceTimerSilent a) s = .next t
            ∧ t = { s with
                roster := t.roster
                notices := postNotice s.notices .peerSilent (.address a)
                  (((s.peer a).interval.getD c.presence).setWidth 16) }
            ∧ t.peer a = { s.peer a with state := .silent }
            ∧ ∀ x : Addr, x ≠ a → t.peer x = s.peer x)
        ∧ ((s.peer a).state ≠ .present ∨ (s.peer a).timerOn = false → exec (.silenceTimerSilent a) s = .next s)

/-- R56, R62 to R65, R70, R82, R122, R129: the second silence threshold takes a SILENT entry to GONE with an empty list,
posts PEER_GONE, and every subscription of that origin that is not ORPHANED becomes so, with its machine IDLE, its ASK
withdrawn unless in flight, and its delivered records kept. In RUNNING under FILL and SKIP it gives up the holes inside
the window as it stood, one abandon step after another (`DeliveryAndAbandonSteps`), each with its STREAM_LOSS, and
forgets the horizon; under STALL it keeps N, h and the slots, with STREAM_STALLED for a hole. STREAM_ORPHANED follows
for each, in ascending order of handle; STREAM_READY comes at the end of each subscription's event, which is log entry
6. Other subscriptions are as they were. That a STALL subscription keeps its HELD slots in ORPHANED, as R70 and R71 say
and against item 4 of R51, is the model's reading (log entry 7). That a timer which does not run does not expire is the
model's choice (log entry 17). -/
def Obligations.PeerGoneOrphans : Prop :=
  (∀ (s : State) (a : Addr), 1 ≤ a.toNat → a.toNat ≤ 62 → (s.peer a).state = .silent → (s.peer a).timerOn = true →
    WindowsOk s →
    ∃ (t : State) (k : SubHandle → Nat), exec (.silenceTimerGone a) s = .next t
      ∧ (∀ (h : SubHandle) (w : Sub), s.sub h = some w → w.origin = a → w.windowClosesAt (k h))
      ∧ t = { s with
          roster := t.roster
          subs := t.subs
          offers := s.offers.filter fun o => o.inFlight ||
            match o.item with
            | .ask h => !((s.sub h).any fun w => decide (w.origin = a ∧ w.state ≠ .orphaned))
            | _ => true
          notices := s.signalNotices a (fun h w => w.orphanNotices h (k h)) (postNotice s.notices .peerGone (.address a) 0) }
      ∧ t.peer a = { s.peer a with state := .gone, adverts := [], timerOn := false }
      ∧ (∀ x : Addr, x ≠ a → t.peer x = s.peer x)
      ∧ (∀ h : SubHandle, t.sub h = (s.sub h).map fun w => if w.origin = a then w.orphanedBy (k h) else w)
      ∧ ∀ (h : SubHandle) (w : Sub), s.sub h = some w → w.origin = a → w.state ≠ .orphaned →
          ∃ v : Sub, t.sub h = some v ∧ v.state = .orphaned ∧ v.repair = ⟨.idle, 0, .stopped⟩
            ∧ v.origin = w.origin ∧ v.stream = w.stream ∧ v.handles = w.handles ∧ v.policy = w.policy
            ∧ v.start = w.start ∧ v.discarded = w.discarded
            ∧ v.point.map Point.gen = w.point.map Point.gen
            ∧ (w.policy = .stall ∨ w.state = .waiting →
                v = { w with state := .orphaned, repair := ⟨.idle, 0, .stopped⟩ })
            ∧ (w.policy ≠ .stall → v.h = -1 ∧ ∀ x ∈ v.slots, x.state.isHeld = false))
    ∧ ∀ (s : State) (a : Addr), (s.peer a).state ≠ .silent ∨ (s.peer a).timerOn = false →
        exec (.silenceTimerGone a) s = .next s

/-! ### Parcels of the station -/

/-- R135, R156: a parcel starts only on an idle line with nothing being assembled and nothing of the station on it.
The entry that goes is, of those the line state allows (LISTENING the join HELLO, ACTIVE any, DEPARTING the departure
HELLO), the one of the lowest class, and of these the oldest; it is marked in flight with its content, with none of
its bits driven yet, and nothing else changes. Then (R157) each bit time drives one bit and reads it back: the last
bit of the end field, all having matched, is SENT; the first mismatch is LOST for a recessive bit read dominant within
byte 0 and byte 1, else FAILED; whether a stuff bit right after byte 1 is within it the manual does not say, and that
it is, is the model's choice (log entry 20). What the receiving side makes of the bit it reads is in `ReceptionEnds`.
A parcel starts at the beginning of a bit time, and after a start bit read recessive the line is idle as before (log
entries 21 and 22). -/
def Obligations.ParcelStartSelects : Prop :=
  (∀ (s : State) (pre post : List Offer) (o : Offer) (p : Parcel), ListOk s → s.lineIdle = true →
    s.assembling = false → (∀ x ∈ s.offers, x.inFlight = false) → s.offers = pre ++ o :: post →
    (s.line = .active ∨ (s.line = .listening ∧ o.item = .hello .join)
      ∨ (s.line = .departing ∧ o.item = .hello .departure)) →
    (∀ x ∈ pre, s.line.allows x.item = true → o.item.cls < x.item.cls) →
    (∀ x ∈ post, s.line.allows x.item = true → o.item.cls ≤ x.item.cls) →
    s.compose o.item = some p →
    exec .parcelStart s = .next
      { s with
        offers := pre ++ { o with flight := some p } :: post, lineIdle := false, bits := ⟨0, 0, none, false⟩ })
    ∧ (∀ s : State,
        (s.lineIdle = false ∨ s.assembling = true ∨ (∃ x ∈ s.offers, x.inFlight = true)
          ∨ (∀ x ∈ s.offers, ¬(s.line = .active ∨ (s.line = .listening ∧ x.item = .hello .join)
              ∨ (s.line = .departing ∧ x.item = .hello .departure)))) →
        exec .parcelStart s = .next s)
    ∧ (∀ (s t : State) (x : Bool), exec .parcelStart s = .next t → tick (.bitTime x) s = tick (.bitTime x) t)
    ∧ ∀ (s : State) (o : Offer) (p : Parcel) (d x : Bool) (b : LineBits) (a : Assembly), s.lineIdle = false →
        s.flying = some o → o.flight = some p → p.lineBits[s.bits.driven]? = some d →
        s.readAlong x = ({ s with bits := b }, a) →
        s.ltx = d
          ∧ (x = d → s.bits.driven + 1 < p.lineBits.length →
            tick (.bitTime x) s = .next { s with bits := { b with driven := s.bits.driven + 1 } })
          ∧ (x = d → s.bits.driven + 1 = p.lineBits.length →
            tick (.bitTime x) s = exec .outcomeSent { s with bits := { b with driven := s.bits.driven + 1 } })
          ∧ (x ≠ d → d = true → 1 ≤ s.bits.driven → s.bits.driven ≤ contentionBits p.header.bytes →
            ∃ t : State, exec .outcomeLost { s with bits := b } = .next t ∧ tick (.bitTime x) s = endOfAssembly a t)
          ∧ (x ≠ d → 1 ≤ s.bits.driven → (d = false ∨ contentionBits p.header.bytes < s.bits.driven) →
            ∃ t : State, exec .outcomeFailed { s with bits := b } = .next t ∧ tick (.bitTime x) s = endOfAssembly a t)
          ∧ (x ≠ d → s.bits.driven = 0 → s.line.receives = true → s.bits.left = false →
            ∃ t : State, exec .outcomeFailed { s with bits := b } = .next t ∧ tick (.bitTime x) s = exec .lineIdle t)

/-- R4, R29, R77, R93, R103, R112, R125, R135: the parcel composed for each kind of entry: class of the kind, rank (own
address + M) mod 64, own origin; the MARK carries M + 1, the ASK the window's range, the GONE the pending range, DATA
the retained record (with RESENT set for a resend), the HELLO the image's identifiers, M, the presence interval,
DEPARTING in that line state alone, and one advertisement for each publication in ARMED or RUNNING, ascending. -/
def Obligations.ParcelContents : Prop :=
  ∀ (s : State) (c : Image) (hd : BitVec 2 → Header), s.config = some c →
    (∀ k : BitVec 2, hd k = ⟨k, BitVec.ofNat 6 (c.address.toNat + s.markNo.toNat), addrOf c.address⟩) →
    s.compose .mark = some ⟨hd 0, .mark (s.markNo + 1)⟩
      ∧ (∀ (h : SubHandle) (w : Sub) (q : Point), s.sub h = some w → w.point = some q → w.hasHole = true →
          w.b < w.size →
          ∃ k : Byte, k.toNat = min 16 (min w.h.toNat (w.size - w.b - 1) + 1)
            ∧ s.compose (.ask h) = some ⟨hd 1, .ask ⟨w.origin.setWidth 8, w.stream, q.gen, q.next, k⟩⟩)
      ∧ (∀ (n : StreamNo) (g : GoneRange), (s.stream n).gone = some g →
          s.compose (.gone n) = some ⟨hd 1, .gone ⟨n, g.gen, g.first, g.last⟩⟩)
      ∧ (∀ (n : StreamNo) (i : Nat) (r : Record), (s.posOf n i).record = some r →
          s.compose (.fresh n i) = some
              ⟨hd 2, .data ⟨false, r.short, r.hostData, r.stream, r.gen, r.seq, r.mark, r.offset, r.mask, r.frames,
                r.samples⟩⟩
            ∧ s.compose (.resend n i) = some
              ⟨hd 1, .data ⟨true, r.short, r.hostData, r.stream, r.gen, r.seq, r.mark, r.offset, r.mask, r.frames,
                r.samples⟩⟩)
      ∧ ∀ sort : HelloSort, ∃ l : List Advert,
          s.compose (.hello sort) = some
            ⟨hd 3, .hello ⟨c.unit, c.token, s.markNo, c.presence, decide (s.line = .departing), l⟩⟩
          ∧ l.Pairwise (fun a b => a.stream < b.stream)
          ∧ ∀ a : Advert, a ∈ l ↔ ∃ p : Pub, s.pub a.stream = some p ∧ p.state ≠ .closing ∧ a.gen = p.gen
              ∧ a.range =
                match p.head with
                | some t => if 1 ≤ p.retained then some (t.last - word16Of (p.retained - 1), t.last) else none
                | none => none

/-- R17, R23, R24, R78, R93, R138: the outcome SENT of an ASK, a GONE or a DATA parcel: the entry is removed, the streak
becomes 0, and its owner acts: a machine in ASKING counts an attempt and waits for the answer, any other is as it was;
the pending GONE range is cleared; the position becomes SENT, a resend is counted; a CLOSING publication is removed, its
slots return and PUB_CLOSED is posted with its generation. An outcome with nothing in flight does not occur (log entry
17). -/
def Obligations.SentReachesOwner : Prop :=
  (∀ (s : State) (o : Offer), ListOk s → o ∈ s.offers → o.inFlight = true →
    (∀ h : SubHandle, o.item = .ask h →
      ∃ t : State, exec .outcomeSent s = .next t
        ∧ t = { s.carried with subs := t.subs }
        ∧ t.sub h = (s.sub h).map (fun w =>
            { w with
              repair := if w.repair.state = .asking then ⟨.answer, w.repair.attempts + 1, s.answerWaitTimer⟩
                else w.repair })
        ∧ ∀ h' : SubHandle, h' ≠ h → t.sub h' = s.sub h')
      ∧ (∀ n : StreamNo, o.item = .gone n →
        ∃ t : State, exec .outcomeSent s = .next t
          ∧ t = { s.carried with streams := t.streams }
          ∧ t.stream n = { s.stream n with gone := none }
          ∧ ∀ m : StreamNo, m ≠ n → t.stream m = s.stream m)
      ∧ (∀ (n : StreamNo) (i : Nat) (p : Pub), (o.item = .fresh n i ∨ o.item = .resend n i) → s.pub n = some p →
        (p.state ≠ .closing →
          ∃ t : State, exec .outcomeSent s = .next t
            ∧ t = { s.carried with streams := t.streams }
            ∧ t.stream n =
                { s.stream n with
                  pub := some
                    { p with
                      ring := p.ring.modify i fun x => { x with state := x.state.toSent }
                      resendCount := if o.item = .resend n i then satAdd p.resendCount 1 else p.resendCount } }
            ∧ ∀ m : StreamNo, m ≠ n → t.stream m = s.stream m)
        ∧ (p.state = .closing →
          ∃ t : State, exec .outcomeSent s = .next t
            ∧ t = { s.carried with
                offers := s.offersLanded.filter fun x => !x.item.isDataOf n
                streams := t.streams
                freeSlots := t.freeSlots
                notices := postNotice s.notices .pubClosed (.stream n) (p.gen.setWidth 16) }
            ∧ t.stream n = { s.stream n with pub := none }
            ∧ (∀ m : StreamNo, m ≠ n → t.stream m = s.stream m)
            ∧ t.freeSlots.Perm (p.handles ++ s.freeSlots)
            ∧ (s.freeSlots.Pairwise (· ≤ ·) → t.freeSlots.Pairwise (· ≤ ·)))))
    ∧ ∀ s : State, (∀ o ∈ s.offers, o.inFlight = false) →
        exec .outcomeSent s = .next s ∧ exec .outcomeLost s = .next s ∧ exec .outcomeFailed s = .next s

/-- R83, R102, R104, R110, R123, R124, R126, R134, R138, R146, R149, R150: the outcome SENT of the own MARK and of the
HELLOs. The MARK is adopted with the source OWN and the number it carried: every builder that holds frames is sealed
short, or counted as overrun, before it is emptied (R41). The join HELLO takes LISTENING to ACTIVE, posts LINE_STATE,
starts both timers and unparks the machines; in OFFLINE it changes nothing. That it does so in every LISTENING, also in
one that JOIN has entered after a LEAVE with this HELLO still on the line, is the model's choice (log entry 9). The
presence HELLO restarts the presence timer in ACTIVE and frees the place for the departure HELLO in DEPARTING. The
departure HELLO takes DEPARTING to OFFLINE and posts LINE_STATE. -/
def Obligations.SentMarkAndHello : Prop :=
  ∀ (s : State) (c : Image) (o : Offer), ListOk s → s.config = some c → o ∈ s.offers → o.inFlight = true →
    (∀ (hd : Header) (m : MarkNo), o.item = .mark → o.flight = some ⟨hd, .mark m⟩ →
      (∀ n : StreamNo, s.shortDue n = none) →
      ∃ t : State, exec .outcomeSent s = .next t
        ∧ t = { s.carried with
            markNo := m
            markPending := false
            lastMark := some ⟨m, .own, addrOf c.address, s.frameOffset⟩
            frameOffset := 0
            streams := t.streams
            intervalTimer := if s.line = .active then s.intervalStart else s.intervalTimer
            notices := postNotice s.notices .markAdopted .none m }
        ∧ ∀ n : StreamNo, t.stream n =
            { s.stream n with
              pub := (s.pub n).map fun p =>
                { p with
                  state := if p.state = .armed then .running else p.state
                  builder := p.builder.map fun b => { b with phase := 0 } } })
      ∧ (∀ (hd : Header) (m : MarkNo), o.item = .mark → o.flight = some ⟨hd, .mark m⟩ → RingsOk s → PositionsOk s →
        ∃ t : State, exec .outcomeSent s = .next t ∧ s.carried.adoptsTo t m .own (addrOf c.address))
      ∧ (o.item = .hello .join → s.line = .listening →
        ∃ t : State, exec .outcomeSent s = .next t
          ∧ t = { s.carried with
              line := .active
              listenTimer := .stopped
              intervalTimer := if c.interval = 0 then .stopped else .running (c.interval.toNat * 1000)
              presenceTimer := .running (c.presence.toNat * 10000)
              subs := t.subs
              notices := postNotice s.notices .lineState .none 0x0300 }
          ∧ ∀ h : SubHandle, t.sub h = (s.sub h).map fun w =>
              if w.repair.state = .parked then
                { w with
                  repair :=
                    if w.hasHole then
                      ⟨.delay, 0, .askDelay (c.askBase.toNat * 100 + c.address.toNat * (c.stagger.toNat * 10))⟩
                    else ⟨.idle, 0, .stopped⟩ }
              else w)
      ∧ (o.item = .hello .join → s.line ≠ .listening →
        exec .outcomeSent s = .next
          s.carried)
      ∧ (o.item = .hello .presence → s.line = .active →
        exec .outcomeSent s = .next
          { s.carried with
            presenceTimer := .running (c.presence.toNat * 10000) })
      ∧ (o.item = .hello .presence → s.line = .departing →
        exec .outcomeSent s = .next
          { s.carried with
            offers := s.offersLanded ++ [freshOffer (.hello .departure)] })
      ∧ (o.item = .hello .departure → s.line = .departing →
        ∃ t : State, exec .outcomeSent s = .next t
          ∧ t = { s.carried with
              line := .offline
              listenTimer := .stopped
              bits := { s.bits with recessive := 0, rx := none, left := true }
              roster := t.roster
              notices := postNotice s.notices .lineState .none 0x0100 }
          ∧ ∀ a : Addr, t.peer a =
              if (s.peer a).state = .self then s.peer a
              else { s.peer a with state := .unknown, adverts := [], timerOn := false })

/-- R17, R23 to R25, R78, R93, R104, R105, R134, R137, R139 to R142, R149, R150, R158: LOST keeps an entry its owner
still wants, in its place with its failures, and leaves the streak; FAILED adds a failure and raises the streak, and the
fourth failure removes the entry: a DATA position becomes SENT uncounted, an ASK counts as sent, a GONE range is
cleared, a MARK clears P and posts MARK_FAILED, and a departure HELLO takes DEPARTING to OFFLINE with LINE_STATE and the
roster cleared. The join HELLO counts no failure, and a station that LEAVE has taken to OFFLINE since its start
withdraws it, whatever the line state now (R149; in a LISTENING that JOIN has entered since, log entry 9). An entry its
owner no longer wants goes by either outcome, whatever its failures: the DATA of a CLOSING publication, which is removed
(R17), and outside ACTIVE any DATA, its position SENT (R25), and the MARK, its request dropped without notice (R105); an
ASK whose machine has left ASKING or whose subscription is closed (R78); a GONE whose range is cleared (R93); the
presence HELLO in DEPARTING, where the departure HELLO is admitted in its place (R134). Here the streak stays below 16,
or the line is in a state it does not mute; `StreakMutes` has the rest. The reception of what the line carries goes on
after either outcome (R159), unless the line has entered OFFLINE since the start (R158). -/
def Obligations.LostAndFailedOutcomes : Prop :=
  (∀ (s : State) (pre post : List Offer) (o : Offer), ListOk s → s.offers = pre ++ o :: post → o.inFlight = true →
    (s.line = .active ∨ (s.line = .listening ∧ o.item = .hello .join)
      ∨ (s.line = .departing ∧ o.item = .hello .departure)) →
    (s.line = .active → o.item ≠ .hello .join ∧ o.item ≠ .hello .departure) →
    (o.item = .hello .join → s.bits.left = false) →
    (∀ h : SubHandle, o.item = .ask h → s.wantsAsk h = true) →
    (∀ n : StreamNo, o.item = .gone n → (s.stream n).gone.isSome = true) →
    (∀ (n : StreamNo) (i : Nat), o.item = .fresh n i ∨ o.item = .resend n i → ∃ p ∈ s.pub n, p.state ≠ .closing) →
    exec .outcomeLost s = .next
        { s with
          offers := pre ++ { o with flight := none } :: post, lineIdle := false, assembling := s.mayAssemble }
      ∧ (s.streak < 15 → (o.item = .hello .join ∨ o.failures < 3) →
        exec .outcomeFailed s = .next
          { s with
            offers := pre ++ ⟨o.item, if o.item = .hello .join then 0 else o.failures + 1, none⟩ :: post
            streak := s.streak + 1
            lineIdle := false
            assembling := s.mayAssemble }))
    ∧ (∀ (s : State) (o : Offer), ListOk s → o ∈ s.offers → o.inFlight = true → o.failures = 3 → s.streak < 15 →
        s.line = .active →
        (∀ (hd : Header) (m : MarkNo), o.item = .mark → o.flight = some ⟨hd, .mark m⟩ →
          exec .outcomeFailed s = .next
            { s with
              offers := s.offersLanded
              streak := s.streak + 1
              lineIdle := false
              assembling := s.mayAssemble
              markPending := false
              notices := postNotice s.notices .markFailed .none m })
          ∧ (∀ (h : SubHandle) (w : Sub), o.item = .ask h → s.sub h = some w → w.repair.state = .asking →
            ∃ t : State, exec .outcomeFailed s = .next t
              ∧ State.onlySub
                { s with
                  offers := s.offersLanded
                  streak := s.streak + 1
                  lineIdle := false
                  assembling := s.mayAssemble } t h
                { w with repair := ⟨.answer, w.repair.attempts + 1, s.answerWaitTimer⟩ })
          ∧ (∀ n : StreamNo, o.item = .gone n →
            ∃ t : State, exec .outcomeFailed s = .next t
              ∧ t = { s with
                  offers := s.offersLanded
                  streak := s.streak + 1
                  lineIdle := false
                  assembling := s.mayAssemble
                  streams := t.streams }
              ∧ t.stream n = { s.stream n with gone := none }
              ∧ ∀ m : StreamNo, m ≠ n → t.stream m = s.stream m)
          ∧ (∀ (n : StreamNo) (i : Nat) (p : Pub), o.item = .fresh n i ∨ o.item = .resend n i → s.pub n = some p →
            p.state ≠ .closing →
            ∃ t : State, exec .outcomeFailed s = .next t
              ∧ t = { s with
                  offers := s.offersLanded
                  streak := s.streak + 1
                  lineIdle := false
                  assembling := s.mayAssemble
                  streams := t.streams }
              ∧ t.stream n =
                  { s.stream n with
                    pub := some { p with ring := p.ring.modify i fun x => { x with state := x.state.toSent } } }
              ∧ ∀ m : StreamNo, m ≠ n → t.stream m = s.stream m)
          ∧ (o.item = .hello .presence →
            exec .outcomeFailed s = .next
              { s with
                offers := s.offersLanded
                streak := s.streak + 1
                lineIdle := false
                assembling := s.mayAssemble }))
    ∧ (∀ (s : State) (o : Offer), ListOk s → o ∈ s.offers → o.inFlight = true → o.failures = 3 → s.streak < 15 →
        s.line = .departing → o.item = .hello .departure →
        ∃ t : State, exec .outcomeFailed s = .next t
          ∧ t = { s with
              offers := s.offersLanded
              streak := s.streak + 1
              line := .offline
              listenTimer := .stopped
              lineIdle := false
              assembling := false
              bits := { s.bits with recessive := 0, rx := none, left := true }
              roster := t.roster
              notices := postNotice s.notices .lineState .none 0x0100 }
          ∧ ∀ a : Addr, t.peer a =
              if (s.peer a).state = .self then s.peer a
              else { s.peer a with state := .unknown, adverts := [], timerOn := false })
    ∧ ∀ (s : State) (o : Offer) (c : Instr), ListOk s → o ∈ s.offers → o.inFlight = true →
        c = .outcomeLost
          ∨ (c = .outcomeFailed
            ∧ (s.streak < 15 ∨ (s.line ≠ .listening ∧ s.line ≠ .active ∧ s.line ≠ .departing))) →
        (∀ (n : StreamNo) (i : Nat) (p : Pub), o.item = .fresh n i ∨ o.item = .resend n i → s.pub n = some p →
          (p.state = .closing →
            ∃ t : State, exec c s = .next t
              ∧ t = { s.dropped c with
                  offers := s.offers.filter fun x => !x.item.isDataOf n
                  streams := t.streams
                  freeSlots := t.freeSlots
                  notices := postNotice s.notices .pubClosed (.stream n) (p.gen.setWidth 16) }
              ∧ t.stream n = { s.stream n with pub := none }
              ∧ (∀ m : StreamNo, m ≠ n → t.stream m = s.stream m)
              ∧ t.freeSlots.Perm (p.handles ++ s.freeSlots)
              ∧ (s.freeSlots.Pairwise (· ≤ ·) → t.freeSlots.Pairwise (· ≤ ·)))
          ∧ (p.state ≠ .closing → s.line ≠ .active →
            ∃ t : State, exec c s = .next t
              ∧ t = { s.dropped c with streams := t.streams }
              ∧ t.stream n =
                  { s.stream n with
                    pub := some { p with ring := p.ring.modify i fun x => { x with state := x.state.toSent } } }
              ∧ ∀ m : StreamNo, m ≠ n → t.stream m = s.stream m))
        ∧ (o.item = .mark → s.line ≠ .active → exec c s = .next { s.dropped c with markPending := false })
        ∧ (∀ h : SubHandle, o.item = .ask h → s.wantsAsk h = false → exec c s = .next (s.dropped c))
        ∧ (∀ n : StreamNo, o.item = .gone n → (s.stream n).gone = none → exec c s = .next (s.dropped c))
        ∧ (o.item = .hello .join → s.line ≠ .listening ∨ s.bits.left = true → exec c s = .next (s.dropped c))
        ∧ (o.item = .hello .presence → s.line = .departing →
          exec c s = .next { s.dropped c with offers := s.offersLanded ++ [freshOffer (.hello .departure)] })
        ∧ (o.item = .hello .presence → s.line ≠ .active → s.line ≠ .departing → exec c s = .next (s.dropped c))
        ∧ (o.item = .hello .departure → s.line ≠ .departing → exec c s = .next (s.dropped c))

/-- R83, R105, R134, R143, R146, R152: a FAILED outcome that raises the streak to 16 in LISTENING, ACTIVE or DEPARTING
mutes the station with the cause LINE_FAULT, in either order of what the rule leaves free (log entry 5): the offer list
is empty, the timers stop, P and, from ACTIVE, the pending GONE ranges are cleared, no position waits for an offer and
no machine asks. Only the exhausted departure HELLO may find OFFLINE instead. A CLOSING publication, its parcel being
the one that failed, is removed (R17). -/
def Obligations.StreakMutes : Prop :=
  ∀ (s : State) (o : Offer), Sound s → o ∈ s.offers → o.inFlight = true → 15 ≤ s.streak →
    (s.line = .listening ∨ s.line = .active ∨ s.line = .departing) →
    ∃ t : State, exec .outcomeFailed s = .next t
      ∧ (t.line = .mute .lineFault ∨ (t.line = .offline ∧ o.item = .hello .departure ∧ o.failures = 3))
      ∧ t = { s with
          line := t.line
          streak := 16
          offers := []
          markPending := false
          intervalTimer := .stopped
          presenceTimer := .stopped
          listenTimer := .stopped
          lineIdle := false
          assembling := s.mayAssemble && decide (t.line ≠ .offline)
          bits := if t.line = .offline then { s.bits with recessive := 0, rx := none, left := true } else s.bits
          roster := t.roster
          streams := t.streams
          freeSlots := t.freeSlots
          subs := t.subs
          notices := t.notices
          freeDraws := s.freeDraws + 1 }
      ∧ (t.line ≠ .offline → t.roster = s.roster)
      ∧ (∀ (n : StreamNo) (p : Pub), s.pub n = some p → p.state = .closing →
          t.pub n = none ∧ t.freeSlots.Perm (p.handles ++ s.freeSlots)
            ∧ (t.notices =
                postNotice (postNotice s.notices .pubClosed (.stream n) (p.gen.setWidth 16)) .lineState .none 0x0502
              ∨ t.notices =
                postNotice (postNotice s.notices .lineState .none 0x0502) .pubClosed (.stream n) (p.gen.setWidth 16)))
      ∧ (∀ n : StreamNo, (s.line = .active → (t.stream n).gone = none)
          ∧ (t.stream n).counter = (s.stream n).counter ∧ ∀ i : Nat, (t.posOf n i).offered = false)
      ∧ ∀ (h : SubHandle) (w : Sub), s.sub h = some w → ∃ v : Sub, t.sub h = some v
          ∧ v = { w with repair := v.repair }
          ∧ v.repair.state ≠ .delay ∧ v.repair.state ≠ .asking ∧ v.repair.state ≠ .answer

/-! ### Receptions -/

/-- R51, R52, R53, R54, R55, R56, R65, R75, R80, R81, R82: an arriving DATA parcel at its subscription, of a PRESENT
origin. Discarded and counted: in ORPHANED, in WAITING under HISTORY, of an earlier generation, earlier than N, or
already held. Beyond the ahead run it is pushed back: counted, and h rises. Within it the record is HELD and h rises. At
N it and the HELD slots that follow it become READY (`DeliveryAndAbandonSteps` has the run), and the machine starts its
attempts afresh: IDLE without a hole left, and one that asks for a hole without room goes back to DELAY. WAITING under
LIVE starts on it, and a later generation resyncs on it; with b = S either starts at it and pushes it back. A hole that
appears moves an IDLE machine to DELAY, or to PARKED outside ACTIVE. In STALLED a record ahead of N is placed as in
RUNNING, and the one at N lifts the stall: RUNNING, with the machine started again by the holes left. -/
def Obligations.DataPlacement : Prop :=
  ∀ (s : State) (hd : Header) (d : DataBody) (h : SubHandle) (w : Sub) (r : Record), s.hears hd → d.consistent = true →
    WindowsOk s → s.sub h = some w → w.origin = hd.origin → w.stream = d.stream →
    r = ⟨hd.origin, d.stream, d.gen, d.seq, d.mark, d.offset, d.mask, d.frames, d.resent, d.short, d.hostData, false,
      d.samples⟩ →
    (w.state = .orphaned ∨ (w.state = .waiting ∧ w.start = .history) →
      ∃ t : State, exec (.dataAccepted hd d) s = .next t
        ∧ s.heard.onlySub t h { w with discarded := satAdd w.discarded 1 })
      ∧ (w.state = .waiting → w.start = .live → w.b < w.size →
        ∃ t : State, exec (.dataAccepted hd d) s = .next t
          ∧ t = { s.heard with
              subs := t.subs
              offers := s.offers.filter fun o => decide (o.item ≠ .ask h)
              notices := if w.waiting = 0 then postNotice s.notices .streamReady (.sub h) 1 else s.notices }
          ∧ t.sub h = some
            { w with
              state := .running
              point := some ⟨d.gen, d.seq + 1⟩
              slots := w.slots.modify w.p fun x => { x with state := .ready r }
              p := (w.p + 1) % w.size
              b := w.b + 1
              h := -1
              repair := ⟨.idle, 0, .stopped⟩
              delivered := satAdd w.delivered 1 }
          ∧ ∀ h' : SubHandle, h' ≠ h → t.sub h' = s.sub h')
      ∧ (w.state = .waiting → w.start = .live → w.b = w.size →
        ∃ t : State, exec (.dataAccepted hd d) s = .next t
          ∧ t = { s.heard with subs := t.subs, offers := s.offers.filter fun o => decide (o.item ≠ .ask h) }
          ∧ t.sub h = some
            { w with
              state := .running
              point := some ⟨d.gen, d.seq⟩
              h := 0
              repair := s.machineFor true 0
              discarded := satAdd w.discarded 1 }
          ∧ ∀ h' : SubHandle, h' ≠ h → t.sub h' = s.sub h')
      ∧ ∀ q : Point, w.state = .running ∨ w.state = .stalled → w.point = some q →
        (d.gen = q.gen →
          (sdist q.next d.seq < 0 →
            ∃ t : State, exec (.dataAccepted hd d) s = .next t
              ∧ s.heard.onlySub t h { w with discarded := satAdd w.discarded 1 })
          ∧ (0 ≤ sdist q.next d.seq → w.size - w.b ≤ dist q.next d.seq →
            ∃ t : State, exec (.dataAccepted hd d) s = .next t
              ∧ s.heard.onlySub t h
                { w with
                  discarded := satAdd w.discarded 1
                  h := max w.h (dist q.next d.seq)
                  repair := if w.h = -1 ∧ w.repair.state = .idle then s.machineFor true w.repair.attempts
                    else w.repair })
          ∧ (dist q.next d.seq < w.size - w.b → (w.at ((w.p + dist q.next d.seq) % w.size)).isHeld = true →
            ∃ t : State, exec (.dataAccepted hd d) s = .next t
              ∧ s.heard.onlySub t h { w with discarded := satAdd w.discarded 1 })
          ∧ (1 ≤ dist q.next d.seq → dist q.next d.seq < w.size - w.b →
            (w.at ((w.p + dist q.next d.seq) % w.size)).isHeld = false →
            ∃ t : State, exec (.dataAccepted hd d) s = .next t
              ∧ s.heard.onlySub t h
                { w with
                  slots := w.slots.modify ((w.p + dist q.next d.seq) % w.size) fun x => { x with state := .held r }
                  h := max w.h (dist q.next d.seq)
                  repair := if w.h = -1 ∧ w.repair.state = .idle then s.machineFor true w.repair.attempts
                    else w.repair })
          ∧ (w.state = .stalled → d.seq = q.next → w.b < w.size →
            ∃ (t : State) (v : Sub), exec (.dataAccepted hd d) s = .next t
              ∧ v = Sub.deliveryRun
                { w with
                  state := .running
                  slots := w.slots.modify w.p fun x => { x with state := .held r }
                  h := max w.h 0 }
              ∧ t = { s.heard with
                  subs := t.subs
                  offers := s.offers.filter fun o => decide (o.item ≠ .ask h)
                  notices := if w.waiting = 0 then postNotice s.notices .streamReady (.sub h) (word16Of v.waiting)
                    else s.notices }
              ∧ t.sub h = some { v with repair := s.machineFor (decide (0 ≤ v.h)) 0 }
              ∧ ∀ h' : SubHandle, h' ≠ h → t.sub h' = s.sub h')
          ∧ (w.state = .running → d.seq = q.next → w.b < w.size →
            ∃ (t : State) (v : Sub), exec (.dataAccepted hd d) s = .next t
              ∧ v = Sub.deliveryRun
                { w with slots := w.slots.modify w.p fun x => { x with state := .held r }, h := max w.h 0 }
              ∧ t = { s.heard with
                  subs := t.subs
                  offers :=
                    if w.repair.state = .asking ∧ (v.h = -1 ∨ v.b = v.size) then
                      s.offers.filter fun o => decide (o.item ≠ .ask h)
                    else s.offers
                  notices := if w.waiting = 0 then postNotice s.notices .streamReady (.sub h) (word16Of v.waiting)
                    else s.notices }
              ∧ t.sub h = some
                { v with
                  repair :=
                    if 0 ≤ v.h then
                      if w.repair.state = .asking ∧ v.b = v.size then ⟨.delay, 0, s.askDelayTimer⟩
                      else { w.repair with attempts := 0 }
                    else if w.repair.state = .halted then { w.repair with attempts := 0 }
                    else ⟨.idle, 0, if w.repair.state = .idle then w.repair.timer else .stopped⟩ }
              ∧ ∀ h' : SubHandle, h' ≠ h → t.sub h' = s.sub h'))
        ∧ (d.gen ≠ q.gen → genLater d.gen q.gen = false →
          ∃ t : State, exec (.dataAccepted hd d) s = .next t
            ∧ s.heard.onlySub t h { w with discarded := satAdd w.discarded 1 })
        ∧ (genLater d.gen q.gen = true → w.b < w.size →
          ∃ t : State, exec (.dataAccepted hd d) s = .next t
            ∧ t = { s.heard with
                subs := t.subs
                offers := s.offers.filter fun o => decide (o.item ≠ .ask h)
                notices :=
                  if w.waiting = 0 then
                    postNotice (postNotice s.notices .streamResync (.sub h) (d.gen.setWidth 16)) .streamReady (.sub h) 1
                  else postNotice s.notices .streamResync (.sub h) (d.gen.setWidth 16) }
            ∧ t.sub h = some
              { w with
                state := .running
                point := some ⟨d.gen, d.seq + 1⟩
                slots := (w.slots.map fun x => { x with state := if x.state.isHeld then .free else x.state }).modify w.p
                  fun x => { x with state := .ready r }
                p := (w.p + 1) % w.size
                b := w.b + 1
                h := -1
                repair := ⟨.idle, 0, .stopped⟩
                delivered := satAdd w.delivered 1
                discarded := satAdd w.discarded (w.count SlotState.isHeld) }
            ∧ ∀ h' : SubHandle, h' ≠ h → t.sub h' = s.sub h')
        ∧ (genLater d.gen q.gen = true → w.b = w.size →
          ∃ t : State, exec (.dataAccepted hd d) s = .next t
            ∧ t = { s.heard with
                subs := t.subs
                offers := s.offers.filter fun o => decide (o.item ≠ .ask h)
                notices := postNotice s.notices .streamResync (.sub h) (d.gen.setWidth 16) }
            ∧ t.sub h = some
              { w with
                state := .running
                point := some ⟨d.gen, d.seq⟩
                h := 0
                repair := s.machineFor true 0
                discarded := satAdd w.discarded 1 }
            ∧ ∀ h' : SubHandle, h' ≠ h → t.sub h' = s.sub h')

/-- R55, R62 to R70, R82, R108, R118 to R120, R129: a HELLO of a PRESENT peer. With other identifiers than those stored
PEER_RESTARTED is posted and every subscription of the origin not ORPHANED starts again from WAITING. The identifiers,
interval (1 for 0), mark and list, one advertisement for each stream number, are stored. Then each subscription of the
origin, as the restart left it, hears advertised or not listed, in ascending order of handle: WAITING starts on the
advertisement, RUNNING and STALLED raise h or resync on a later generation, and one that is not listed gives up its
holes inside the window or stalls, and forgets the horizon; ORPHANED and an older generation ignore it. A departing
HELLO instead makes the entry GONE with an empty list, posts PEER_GONE with the detail 1 and orphans every subscription,
as silence does (`PeerGoneOrphans`). In LISTENING a mark later than M is then adopted with the source JOIN. An ASK is
withdrawn when its machine leaves ASKING. The place of STREAM_READY at the end of each subscription's event is log entry
6. Two effects under STALL are the model's reading where R51 says otherwise (log entry 7): one not listed has h -1 and
keeps its HELD slots, as R68 says and against item 5, and one that a departing HELLO orphans keeps them too, as R70 says
and against item 4. -/
def Obligations.HelloActsOnPeer : Prop :=
  ∀ (s : State) (hd : Header) (b : HelloBody) (r : Sub → Sub) (q : List Notice), s.hears hd → (Body.hello b).passes = true →
    WindowsOk s → RepairsOk s → AsksOk s → RingsOk s → PositionsOk s → MarkOfferOk s →
    ((s.peer hd.origin).identity = none ∨ (s.peer hd.origin).identity = some ⟨b.unit, b.token⟩ →
      q = s.notices ∧ ∀ w : Sub, r w = w) →
    (∀ i : Identity, (s.peer hd.origin).identity = some i → i ≠ ⟨b.unit, b.token⟩ →
      q = postNotice s.notices .peerRestarted (.address hd.origin) b.token ∧ ∀ w : Sub, r w = w.restartedBy) →
    ∃ (u t : State) (k : SubHandle → Nat), exec (.helloAccepted hd b) s = .next t
      ∧ (if s.line = .listening ∧ later b.mark s.markNo = true then u.adoptsTo t b.mark .join hd.origin else t = u)
      ∧ (∀ (h : SubHandle) (w : Sub), s.sub h = some w → w.origin = hd.origin → (r w).windowClosesAt (k h))
      ∧ u = { s.heard with
          roster := u.roster
          subs := u.subs
          offers := s.offers.filter fun o =>
            match o.item with
            | .ask h => u.wantsAsk h
            | _ => true
          notices :=
            if b.departing then
              s.signalNotices hd.origin (fun h w => (r w).orphanNotices h (k h))
                (postNotice q .peerGone (.address hd.origin) 1)
            else s.signalNotices hd.origin (fun h w => s.listNotices b.adverts h (r w) (k h)) q }
      ∧ u.peer hd.origin =
          { s.peer hd.origin with
            state := if b.departing then .gone else .present
            identity := some ⟨b.unit, b.token⟩
            interval := some (if b.interval = 0 then 1 else b.interval)
            mark := some b.mark
            adverts := if b.departing then [] else firstPerStream b.adverts
            timerOn := !b.departing }
      ∧ (∀ a : Addr, a ≠ hd.origin → u.peer a = s.peer a)
      ∧ ∀ h : SubHandle, u.sub h = (s.sub h).map fun w =>
          if w.origin = hd.origin then
            if b.departing then (r w).orphanedBy (k h) else s.listedBy b.adverts (r w) (k h)
          else w

/-- R71, R108, R116, R117, R151: the first step on an accepted parcel of any kind, in every state that receives. An
origin UNKNOWN or GONE becomes PRESENT with PEER_JOINED and the kind, and its ORPHANED subscriptions go on: RUNNING with
a generation, else WAITING; a SILENT one becomes PRESENT without notice. Then the parcel acts as it acts on the state so
reached, whose origin is PRESENT: the statements of receptions of a PRESENT origin say how. Written out for a MARK that
is not later than M, heard in LISTENING, which does nothing more; a later one, here of a PRESENT peer, is adopted whole
with the source JOIN. The own address as origin is an address conflict: ADDRESS_CONFLICT, then MUTE with the cause
CONFLICT and LINE_STATE from LISTENING, ACTIVE, DEPARTING, or from MUTE with the cause LINE_FAULT, with every entry
withdrawn. -/
def Obligations.PresenceAndConflict : Prop :=
  (∀ (s : State) (p : Parcel), s.canReceive = true → p.passes = true → p.header.origin ≠ s.ownAddr → AsksOk s →
    RepairsOk s →
    ((s.peer p.header.origin).state = .unknown ∨ (s.peer p.header.origin).state = .gone →
      ∃ u : State, exec (receptionOf p) s = exec (receptionOf p) u ∧ u.hears p.header
        ∧ u = { s with
            roster := u.roster
            subs := u.subs
            notices := postNotice s.notices .peerJoined (.address p.header.origin) (p.body.kindCode.setWidth 16) }
        ∧ u.peer p.header.origin = { s.peer p.header.origin with state := .present, timerOn := true }
        ∧ (∀ a : Addr, a ≠ p.header.origin → u.peer a = s.peer a)
        ∧ ∀ h : SubHandle, u.sub h = (s.sub h).map fun w =>
            if w.origin = p.header.origin ∧ w.state = .orphaned then
              if w.point.isSome then { w with state := .running, repair := s.machineFor (decide (0 ≤ w.h)) 0 }
              else { w with state := .waiting }
            else w)
      ∧ ((s.peer p.header.origin).state = .silent →
        ∃ u : State, exec (receptionOf p) s = exec (receptionOf p) u ∧ u.hears p.header
          ∧ u = { s with roster := u.roster }
          ∧ u.peer p.header.origin = { s.peer p.header.origin with state := .present, timerOn := true }
          ∧ ∀ a : Addr, a ≠ p.header.origin → u.peer a = s.peer a))
    ∧ (∀ (s : State) (hd : Header) (m : MarkNo), s.canReceive = true → hd.passes = true → hd.origin ≠ s.ownAddr →
    s.line = .listening → later m s.markNo = false → AsksOk s → RepairsOk s →
    ((s.peer hd.origin).state = .unknown ∨ (s.peer hd.origin).state = .gone →
      ∃ t : State, exec (.markAccepted hd m) s = .next t
        ∧ t = { s.heard with
            roster := t.roster
            subs := t.subs
            notices := postNotice s.notices .peerJoined (.address hd.origin) 2 }
        ∧ t.peer hd.origin = { s.peer hd.origin with state := .present, timerOn := true }
        ∧ (∀ a : Addr, a ≠ hd.origin → t.peer a = s.peer a)
        ∧ ∀ h : SubHandle, t.sub h = (s.sub h).map fun w =>
            if w.origin = hd.origin ∧ w.state = .orphaned then
              if w.point.isSome then { w with state := .running, repair := s.machineFor (decide (0 ≤ w.h)) 0 }
              else { w with state := .waiting }
            else w)
      ∧ ((s.peer hd.origin).state = .silent →
        ∃ t : State, exec (.markAccepted hd m) s = .next t
          ∧ t = { s.heard with roster := t.roster }
          ∧ t.peer hd.origin = { s.peer hd.origin with state := .present, timerOn := true }
          ∧ ∀ a : Addr, a ≠ hd.origin → t.peer a = s.peer a))
    ∧ (∀ (s : State) (hd : Header) (m : MarkNo), s.hears hd → s.line = .listening →
        (later m s.markNo = false → exec (.markAccepted hd m) s = .next s.heard)
        ∧ (later m s.markNo = true → RingsOk s → PositionsOk s → MarkOfferOk s →
          ∃ t : State, exec (.markAccepted hd m) s = .next t ∧ s.heard.adoptsTo t m .join hd.origin))
    ∧ ∀ (s : State) (p : Parcel) (q : List Notice), s.canReceive = true → p.passes = true →
      p.header.origin = s.ownAddr →
      q = postNotice s.notices .addressConflict (.address s.ownAddr) (p.body.kindCode.setWidth 16) →
      (s.line = .mute .conflict → exec (receptionOf p) s = .next { s.heard with notices := q })
        ∧ (s.line = .mute .lineFault →
          exec (receptionOf p) s = .next
            { s.heard with line := .mute .conflict, notices := postNotice q .lineState .none 0x0501 })
        ∧ (s.line = .listening ∨ s.line = .departing →
          exec (receptionOf p) s = .next
            { s.heard with
              line := .mute .conflict
              offers := []
              listenTimer := .stopped
              notices := postNotice q .lineState .none 0x0501 })
        ∧ (s.line = .active →
          ∃ t : State, exec (receptionOf p) s = .next t
            ∧ t = { s.heard with
                line := .mute .conflict
                offers := []
                markPending := false
                intervalTimer := .stopped
                presenceTimer := .stopped
                listenTimer := .stopped
                streams := t.streams
                subs := t.subs
                notices := postNotice q .lineState .none 0x0501 }
            ∧ (∀ n : StreamNo, (t.stream n).gone = none ∧ (t.stream n).counter = (s.stream n).counter
                ∧ (t.pub n).map Pub.handles = (s.pub n).map Pub.handles
                ∧ ∀ i : Nat, t.posOf n i = (s.posOf n i).toSent)
            ∧ ∀ h : SubHandle, t.sub h = (s.sub h).map fun w =>
                { w with
                  repair :=
                    if w.repair.state = .delay ∨ w.repair.state = .asking ∨ w.repair.state = .answer then
                      { w.repair with state := .parked, timer := .stopped }
                    else w.repair })

/-- R84, R86 to R92: an ASK heard. At the publisher, in ACTIVE, with a publication ARMED or RUNNING of that generation:
each asked sequence in a SENT position becomes RESEND with a resend entry, in ascending order, and the evicted sequences
at the head of the run join the pending GONE range; with any other, the whole run joins it: a range is put in place with
its entry, merged with one of the same generation, or put in the place of one of another. Outside ACTIVE the ASK is
ignored. That the GONE entry is admitted before the resends is the model's choice (log entry 18). At a subscription it
covers, it suppresses the machine without an attempt; one it does not cover is as it was. -/
def Obligations.AsksHeard : Prop :=
  (∀ (s : State) (hd : Header) (k : AskBody) (new : GoneRange), s.hears hd → (Body.ask k).passes = true →
    k.target.toNat = s.ownAddr.toNat → GoneOfferOk s →
    new = ⟨k.gen, k.first, k.first + word16Of (k.count.toNat - 1)⟩ →
    (s.line ≠ .active → exec (.askAccepted hd k) s = .next s.heard)
      ∧ (s.line = .active → (∀ p ∈ s.pub k.stream, p.state = .closing ∨ p.gen ≠ k.gen) →
        ∃ t : State, exec (.askAccepted hd k) s = .next t
          ∧ t = { s.heard with
              streams := t.streams
              offers := if (s.stream k.stream).gone = none then s.offers ++ [freshOffer (.gone k.stream)] else s.offers }
          ∧ (∀ n : StreamNo, n ≠ k.stream → t.stream n = s.stream n)
          ∧ t.stream k.stream =
            { s.stream k.stream with
              gone := some (joinedRange (s.stream k.stream).gone new) })
      ∧ (s.line = .active → RingsOk s → PositionsOk s → ∀ p : Pub, s.pub k.stream = some p → p.state ≠ .closing →
        p.gen = k.gen →
        ∃ (t : State) (resends : List Offer) (g : Nat), exec (.askAccepted hd k) s = .next t
          ∧ g =
            (match p.head with
            | none => 0
            | some u =>
              if later k.first u.last = true ∨ dist k.first u.last < p.retained then 0
              else min k.count.toNat (dist k.first u.last + 1 - p.retained))
          ∧ t = { s.heard with
              streams := t.streams
              offers := (if 1 ≤ g ∧ (s.stream k.stream).gone = none then s.offers ++ [freshOffer (.gone k.stream)]
                else s.offers) ++ resends }
          ∧ (∀ n : StreamNo, n ≠ k.stream → t.stream n = s.stream n)
          ∧ (t.stream k.stream).counter = (s.stream k.stream).counter
          ∧ (t.stream k.stream).gone =
            (if 1 ≤ g then
              some (joinedRange (s.stream k.stream).gone ⟨k.gen, k.first, k.first + word16Of (g - 1)⟩)
            else (s.stream k.stream).gone)
          ∧ (∀ i : Nat, t.posOf k.stream i =
              match s.posOf k.stream i with
              | .sent r => if dist k.first r.seq < k.count.toNat then .resend r else .sent r
              | x => x)
          ∧ (t.pub k.stream).map (fun v => { v with ring := [] }) = some { p with ring := [] }
          ∧ resends =
            (List.range k.count.toNat).filterMap fun j =>
              (List.range p.size).findSome? fun i =>
                match p.posAt i with
                | .sent r =>
                  if r.seq = k.first + word16Of j then some (freshOffer (.resend k.stream i)) else none
                | _ => none))
    ∧ ∀ (s : State) (hd : Header) (k : AskBody) (h : SubHandle) (w : Sub), s.hears hd → (Body.ask k).passes = true →
      WindowsOk s → s.sub h = some w → k.target.toNat = w.origin.toNat → k.stream = w.stream →
      (∀ q : Point, w.point = some q → w.state = .running → w.hasHole = true → k.gen = q.gen →
        dist k.first q.next < k.count.toNat →
        ∃ t : State, exec (.askAccepted hd k) s = .next t
          ∧ t = { s.heard with
              subs := t.subs
              offers := if w.repair.state = .asking then s.offers.filter fun o => decide (o.item ≠ .ask h)
                else s.offers }
          ∧ t.sub h = some
            { w with
              repair :=
                if w.repair.state = .delay then ⟨.delay, w.repair.attempts, s.askDelayTimer⟩
                else if w.repair.state = .asking ∨ w.repair.state = .answer then
                  ⟨.answer, w.repair.attempts, s.answerWaitTimer⟩
                else w.repair }
          ∧ ∀ h' : SubHandle, h' ≠ h → t.sub h' = s.sub h')
        ∧ ((∀ q : Point, w.point = some q →
            ¬(w.state = .running ∧ w.hasHole = true ∧ k.gen = q.gen ∧ dist k.first q.next < k.count.toNat)) →
          exec (.askAccepted hd k) s = .next s.heard)

/-- R56, R62 to R65, R80, R85: a GONE at its subscription acts only in RUNNING or STALLED, on its generation, with a
hole at N inside the range. FILL and SKIP then give up hole after hole, one abandon step after another
(`DeliveryAndAbandonSteps`), until none is left or N lies outside the range; each step is an event of its own:
STREAM_LOSS with its N, then STREAM_READY where it is due. The machine's attempts return to 0; with no hole left it is
IDLE, and with a full window an ASKING one delays again; its ASK is withdrawn as it leaves ASKING. STALL becomes STALLED
at N with STREAM_STALLED and its machine HALTED; already STALLED, it takes no step. -/
def Obligations.GoneAbandonsHoles : Prop :=
  ∀ (s : State) (hd : Header) (g : GoneBody) (h : SubHandle) (w : Sub), s.hears hd → (Body.gone g).passes = true →
    WindowsOk s → RepairsOk s → s.sub h = some w → w.origin = hd.origin → w.stream = g.stream →
    ((∀ q : Point, w.point = some q →
        ¬((w.state = .running ∨ w.state = .stalled) ∧ g.gen = q.gen ∧ w.hasHole = true
          ∧ inRun g.first g.last q.next = true)) →
      exec (.goneAccepted hd g) s = .next s.heard)
      ∧ (w.state = .stalled → exec (.goneAccepted hd g) s = .next s.heard)
      ∧ ∀ q : Point, w.point = some q → w.state = .running → g.gen = q.gen → w.hasHole = true →
        inRun g.first g.last q.next = true →
        (w.policy ≠ .stall →
          ∃ (t : State) (v : Sub) (k : Nat), exec (.goneAccepted hd g) s = .next t
            ∧ 1 ≤ k
            ∧ w.stopsAt (Sub.inGoneRun g.first g.last) k
            ∧ v = { w.gaveUp k with
                repair :=
                  if (w.gaveUp k).hasHole = false then ⟨.idle, 0, .stopped⟩
                  else if w.repair.state = .asking ∧ (w.gaveUp k).full = true then ⟨.delay, 0, s.askDelayTimer⟩
                  else { w.repair with attempts := 0 } }
            ∧ t = { s.heard with
                subs := t.subs
                offers := if w.repair.state = .asking ∧ v.repair.state ≠ .asking then
                  s.offers.filter fun o => decide (o.item ≠ .ask h)
                  else s.offers
                notices := w.stepNotices h s.notices k }
            ∧ t.sub h = some v
            ∧ ∀ h' : SubHandle, h' ≠ h → t.sub h' = s.sub h')
          ∧ (w.policy = .stall →
            ∃ t : State, exec (.goneAccepted hd g) s = .next t
              ∧ t = { s.heard with
                  subs := t.subs
                  offers := s.offers.filter fun o => decide (o.item ≠ .ask h)
                  notices := postNotice s.notices .streamStalled (.sub h) q.next }
              ∧ t.sub h = some { w with state := .stalled, repair := ⟨.halted, 0, .stopped⟩ }
              ∧ ∀ h' : SubHandle, h' ≠ h → t.sub h' = s.sub h')

/-- R153, R155, R156, R158, R159, R160: a parcel that cannot be received changes nothing; one that breaks, or that the
filter discards, ends the reception and has no other effect; bytes the filter accepts are handed on as the parcel they
spell (log entry 13). The idle condition is met only in a state that reads the line with no own parcel on it (log entry
12). Below the rows, in each bit time: a dominant bit on an idle line is the start bit of a parcel, a recessive one
leaves it idle; the receiving side steps through the parcel, also its own (R158, R159), and a framing error or the last
bit of the end field ends it; else recessive bits are counted, a dominant one starting the count afresh, and the tenth
makes the line idle. The count waits below ten while a parcel is on the line (log entry 22). -/
def Obligations.ReceptionEnds : Prop :=
  (∀ (s : State) (p : Parcel) (bytes : List Byte), s.canReceive = false →
    exec (receptionOf p) s = .next s ∧ exec .brokenParcel s = .next s ∧ exec (.discardedParcel bytes) s = .next s)
    ∧ (∀ (s : State) (p : Parcel), s.canReceive = true → p.passes = false → exec (receptionOf p) s = .next s.heard)
    ∧ (∀ s : State, s.canReceive = true →
        exec .brokenParcel s =
          .next { s with lineIdle := false, assembling := false, bits := { s.bits with rx := none } })
    ∧ (∀ (s : State) (bytes : List Byte), s.canReceive = true → Filter.accept bytes = none →
        exec (.discardedParcel bytes) s = .next s.heard)
    ∧ (∀ (s : State) (bytes : List Byte) (p : Parcel), Filter.accept bytes = some p →
        exec (.discardedParcel bytes) s = exec (receptionOf p) s)
    ∧ (∀ s : State, (s.line = .listening ∨ s.line = .active ∨ s.line = .departing ∨ ∃ c, s.line = .mute c) →
        (∀ o ∈ s.offers, o.inFlight = false) →
        exec .lineIdle s =
          .next { s with lineIdle := true, assembling := false, bits := { s.bits with recessive := 0, rx := none } })
    ∧ (∀ s : State, (s.line = .unconfigured ∨ s.line = .offline ∨ ∃ o ∈ s.offers, o.inFlight = true) →
        exec .lineIdle s = .next s)
    ∧ (∀ (s : State) (x : Bool), s.line.receives = true → (∀ o ∈ s.offers, o.inFlight = false) →
        exec .parcelStart s = .next s →
        (s.lineIdle = true →
          tick (.bitTime true) s = .next s
            ∧ tick (.bitTime false) s =
              .next
                { s with
                  lineIdle := false
                  assembling := true
                  bits := { s.bits with recessive := 0, rx := some ⟨false, 1, [], none⟩ } })
        ∧ (s.lineIdle = false → (s.assembling = false ∨ s.bits.rx = none) →
          tick (.bitTime false) s = .next { s with bits := { s.bits with recessive := 0, rx := none } }
            ∧ (s.bits.recessive < 9 →
              tick (.bitTime true) s =
                .next { s with bits := { s.bits with recessive := s.bits.recessive + 1, rx := none } })
            ∧ (s.bits.recessive = 9 → tick (.bitTime true) s = exec .lineIdle s))
        ∧ ∀ (r v : Rx) (a : Assembly), s.lineIdle = false → s.assembling = true → s.bits.rx = some r → r.step x = (v, a) →
          tick (.bitTime x) s =
            endOfAssembly a
              { s with
                bits := { s.bits with
                  recessive := if x then min 9 (s.bits.recessive + 1) else 0
                  rx := if a = .unfinished then some v else none } })
    ∧ (∀ (s : State) (x : Bool), (s.line = .unconfigured ∨ s.line = .offline) → (∀ o ∈ s.offers, o.inFlight = false) →
        tick (.bitTime x) s = .next s)
    ∧ ∀ (s : State) (x : Bool),
        (s.line.receives = false → s.readAlong x = (s, .unfinished))
          ∧ (s.line.receives = true → s.bits.left = false → s.bits.driven = 0 → x = false →
            s.readAlong x = ({ s with bits := { s.bits with recessive := 0, rx := some ⟨false, 1, [], none⟩ } }, .unfinished))
          ∧ (s.line.receives = true → (s.bits.left = true ∨ 1 ≤ s.bits.driven ∨ x = true) →
            (s.bits.rx = none →
              s.readAlong x =
                ({ s with bits := { s.bits with recessive := if x then min 9 (s.bits.recessive + 1) else 0 } },
                  .unfinished))
            ∧ ∀ (r v : Rx) (a : Assembly), s.bits.rx = some r → r.step x = (v, a) →
              s.readAlong x =
                ({ s with
                    bits := { s.bits with
                      recessive := if x then min 9 (s.bits.recessive + 1) else 0
                      rx := if a = .unfinished then some v else none } }, a))

/-! ### Formats -/

/-- R154, R155, R159, R160, R179: what one station drives for a parcel, from the start bit to the end field, another
assembles to the same bytes, and its filter accepts them and reads the same parcel: every field of every kind. -/
def Obligations.ParcelsReadBack : Prop :=
  ∀ p : Parcel, p.passes = true →
    assemble p.lineBits = .received p.withCrc ∧ Filter.accept p.withCrc = some p

/-- R136, R137, R155, R157: two stations that start together. The one whose class, rank and origin are the higher, bit
by bit, reads dominant against its recessive bit within byte 0 and byte 1: LOST, and the lower goes on alone and is
SENT. With equal first bytes neither is LOST. Outcomes come to the block as steps; these are the functions on bits that
say which (log entry 16). -/
def Obligations.ContentionLowestWins : Prop :=
  ∀ p q : Parcel,
    ((p.header.cls ++ p.header.rank ++ p.header.origin : BitVec 14).toNat
        < (q.header.cls ++ q.header.rank ++ q.header.origin : BitVec 14).toNat →
      verdict (contentionBits q.header.bytes) q.lineBits (wired p.lineBits q.lineBits) = .lost
        ∧ verdict (contentionBits q.header.bytes) q.lineBits (contend p.lineBits q.lineBits) = .lost
        ∧ verdict (contentionBits p.header.bytes) p.lineBits (contend p.lineBits q.lineBits) = .sent)
      ∧ (p.header = q.header →
        verdict (contentionBits q.header.bytes) q.lineBits (wired p.lineBits q.lineBits) ≠ .lost)

/-- R163, R165, R168, R180: the byte form of every host command, its code and its argument bytes with every operand at
every value, reads back as the command; a code that names no command is a form of its own. -/
def Obligations.CommandBytesReadBack : Prop :=
  ∀ (i : Instr) (bytes : List Byte), i.wellFormed = true → encodeCommand i = some bytes → decodeCommand bytes = some i
end

