-- ==== Sys2Proof/Laws/State.lean ====
section
/-! SUPPORT. What an update of the state leaves alone: one lemma for each field and each primitive update. -/

namespace Sys2Proof.Machine

set_option Elab.async false

open Sys2Proof

/-! ### `State.post` -/

@[simp] theorem State.post_config (s : State) (k : NoticeKind) (o : NoticeObject) (d : Word16) :
    (s.post k o d).config = s.config := rfl
@[simp] theorem State.post_startCause (s : State) (k : NoticeKind) (o : NoticeObject) (d : Word16) :
    (s.post k o d).startCause = s.startCause := rfl
@[simp] theorem State.post_firstReset (s : State) (k : NoticeKind) (o : NoticeObject) (d : Word16) :
    (s.post k o d).firstReset = s.firstReset := rfl
@[simp] theorem State.post_supplyHold (s : State) (k : NoticeKind) (o : NoticeObject) (d : Word16) :
    (s.post k o d).supplyHold = s.supplyHold := rfl
@[simp] theorem State.post_pinHold (s : State) (k : NoticeKind) (o : NoticeObject) (d : Word16) :
    (s.post k o d).pinHold = s.pinHold := rfl
@[simp] theorem State.post_scsLow (s : State) (k : NoticeKind) (o : NoticeObject) (d : Word16) :
    (s.post k o d).scsLow = s.scsLow := rfl
@[simp] theorem State.post_txn (s : State) (k : NoticeKind) (o : NoticeObject) (d : Word16) :
    (s.post k o d).txn = s.txn := rfl
@[simp] theorem State.post_spi (s : State) (k : NoticeKind) (o : NoticeObject) (d : Word16) :
    (s.post k o d).spi = s.spi := rfl
@[simp] theorem State.post_freeSlots (s : State) (k : NoticeKind) (o : NoticeObject) (d : Word16) :
    (s.post k o d).freeSlots = s.freeSlots := rfl
@[simp] theorem State.post_streams (s : State) (k : NoticeKind) (o : NoticeObject) (d : Word16) :
    (s.post k o d).streams = s.streams := rfl
@[simp] theorem State.post_frameOffset (s : State) (k : NoticeKind) (o : NoticeObject) (d : Word16) :
    (s.post k o d).frameOffset = s.frameOffset := rfl
@[simp] theorem State.post_frameInProgress (s : State) (k : NoticeKind) (o : NoticeObject) (d : Word16) :
    (s.post k o d).frameInProgress = s.frameInProgress := rfl
@[simp] theorem State.post_frameBits (s : State) (k : NoticeKind) (o : NoticeObject) (d : Word16) :
    (s.post k o d).frameBits = s.frameBits := rfl
@[simp] theorem State.post_fsyncHigh (s : State) (k : NoticeKind) (o : NoticeObject) (d : Word16) :
    (s.post k o d).fsyncHigh = s.fsyncHigh := rfl
@[simp] theorem State.post_subs (s : State) (k : NoticeKind) (o : NoticeObject) (d : Word16) :
    (s.post k o d).subs = s.subs := rfl
@[simp] theorem State.post_markNo (s : State) (k : NoticeKind) (o : NoticeObject) (d : Word16) :
    (s.post k o d).markNo = s.markNo := rfl
@[simp] theorem State.post_markPending (s : State) (k : NoticeKind) (o : NoticeObject) (d : Word16) :
    (s.post k o d).markPending = s.markPending := rfl
@[simp] theorem State.post_lastMark (s : State) (k : NoticeKind) (o : NoticeObject) (d : Word16) :
    (s.post k o d).lastMark = s.lastMark := rfl
@[simp] theorem State.post_intervalTimer (s : State) (k : NoticeKind) (o : NoticeObject) (d : Word16) :
    (s.post k o d).intervalTimer = s.intervalTimer := rfl
@[simp] theorem State.post_roster (s : State) (k : NoticeKind) (o : NoticeObject) (d : Word16) :
    (s.post k o d).roster = s.roster := rfl
@[simp] theorem State.post_presenceTimer (s : State) (k : NoticeKind) (o : NoticeObject) (d : Word16) :
    (s.post k o d).presenceTimer = s.presenceTimer := rfl
@[simp] theorem State.post_offers (s : State) (k : NoticeKind) (o : NoticeObject) (d : Word16) :
    (s.post k o d).offers = s.offers := rfl
@[simp] theorem State.post_line (s : State) (k : NoticeKind) (o : NoticeObject) (d : Word16) :
    (s.post k o d).line = s.line := rfl
@[simp] theorem State.post_streak (s : State) (k : NoticeKind) (o : NoticeObject) (d : Word16) :
    (s.post k o d).streak = s.streak := rfl
@[simp] theorem State.post_listenTimer (s : State) (k : NoticeKind) (o : NoticeObject) (d : Word16) :
    (s.post k o d).listenTimer = s.listenTimer := rfl
@[simp] theorem State.post_lineIdle (s : State) (k : NoticeKind) (o : NoticeObject) (d : Word16) :
    (s.post k o d).lineIdle = s.lineIdle := rfl
@[simp] theorem State.post_assembling (s : State) (k : NoticeKind) (o : NoticeObject) (d : Word16) :
    (s.post k o d).assembling = s.assembling := rfl
@[simp] theorem State.post_bits (s : State) (k : NoticeKind) (o : NoticeObject) (d : Word16) :
    (s.post k o d).bits = s.bits := rfl
@[simp] theorem State.post_freeDraws (s : State) (k : NoticeKind) (o : NoticeObject) (d : Word16) :
    (s.post k o d).freeDraws = s.freeDraws := rfl
@[simp] theorem State.post_pending (s : State) (k : NoticeKind) (o : NoticeObject) (d : Word16) :
    (s.post k o d).pending = s.pending := rfl
@[simp] theorem State.post_wires (s : State) (k : NoticeKind) (o : NoticeObject) (d : Word16) :
    (s.post k o d).wires = s.wires := rfl

/-! ### `State.setStream` -/

@[simp] theorem State.setStream_config (s : State) (n : StreamNo) (r : StreamRec) :
    (s.setStream n r).config = s.config := rfl
@[simp] theorem State.setStream_startCause (s : State) (n : StreamNo) (r : StreamRec) :
    (s.setStream n r).startCause = s.startCause := rfl
@[simp] theorem State.setStream_firstReset (s : State) (n : StreamNo) (r : StreamRec) :
    (s.setStream n r).firstReset = s.firstReset := rfl
@[simp] theorem State.setStream_supplyHold (s : State) (n : StreamNo) (r : StreamRec) :
    (s.setStream n r).supplyHold = s.supplyHold := rfl
@[simp] theorem State.setStream_pinHold (s : State) (n : StreamNo) (r : StreamRec) :
    (s.setStream n r).pinHold = s.pinHold := rfl
@[simp] theorem State.setStream_scsLow (s : State) (n : StreamNo) (r : StreamRec) :
    (s.setStream n r).scsLow = s.scsLow := rfl
@[simp] theorem State.setStream_txn (s : State) (n : StreamNo) (r : StreamRec) : (s.setStream n r).txn = s.txn := rfl
@[simp] theorem State.setStream_spi (s : State) (n : StreamNo) (r : StreamRec) : (s.setStream n r).spi = s.spi := rfl
@[simp] theorem State.setStream_notices (s : State) (n : StreamNo) (r : StreamRec) :
    (s.setStream n r).notices = s.notices := rfl
@[simp] theorem State.setStream_freeSlots (s : State) (n : StreamNo) (r : StreamRec) :
    (s.setStream n r).freeSlots = s.freeSlots := rfl
@[simp] theorem State.setStream_frameOffset (s : State) (n : StreamNo) (r : StreamRec) :
    (s.setStream n r).frameOffset = s.frameOffset := rfl
@[simp] theorem State.setStream_frameInProgress (s : State) (n : StreamNo) (r : StreamRec) :
    (s.setStream n r).frameInProgress = s.frameInProgress := rfl
@[simp] theorem State.setStream_frameBits (s : State) (n : StreamNo) (r : StreamRec) :
    (s.setStream n r).frameBits = s.frameBits := rfl
@[simp] theorem State.setStream_fsyncHigh (s : State) (n : StreamNo) (r : StreamRec) :
    (s.setStream n r).fsyncHigh = s.fsyncHigh := rfl
@[simp] theorem State.setStream_subs (s : State) (n : StreamNo) (r : StreamRec) : (s.setStream n r).subs = s.subs := rfl
@[simp] theorem State.setStream_markNo (s : State) (n : StreamNo) (r : StreamRec) :
    (s.setStream n r).markNo = s.markNo := rfl
@[simp] theorem State.setStream_markPending (s : State) (n : StreamNo) (r : StreamRec) :
    (s.setStream n r).markPending = s.markPending := rfl
@[simp] theorem State.setStream_lastMark (s : State) (n : StreamNo) (r : StreamRec) :
    (s.setStream n r).lastMark = s.lastMark := rfl
@[simp] theorem State.setStream_intervalTimer (s : State) (n : StreamNo) (r : StreamRec) :
    (s.setStream n r).intervalTimer = s.intervalTimer := rfl
@[simp] theorem State.setStream_roster (s : State) (n : StreamNo) (r : StreamRec) :
    (s.setStream n r).roster = s.roster := rfl
@[simp] theorem State.setStream_presenceTimer (s : State) (n : StreamNo) (r : StreamRec) :
    (s.setStream n r).presenceTimer = s.presenceTimer := rfl
@[simp] theorem State.setStream_offers (s : State) (n : StreamNo) (r : StreamRec) :
    (s.setStream n r).offers = s.offers := rfl
@[simp] theorem State.setStream_line (s : State) (n : StreamNo) (r : StreamRec) : (s.setStream n r).line = s.line := rfl
@[simp] theorem State.setStream_streak (s : State) (n : StreamNo) (r : StreamRec) :
    (s.setStream n r).streak = s.streak := rfl
@[simp] theorem State.setStream_listenTimer (s : State) (n : StreamNo) (r : StreamRec) :
    (s.setStream n r).listenTimer = s.listenTimer := rfl
@[simp] theorem State.setStream_lineIdle (s : State) (n : StreamNo) (r : StreamRec) :
    (s.setStream n r).lineIdle = s.lineIdle := rfl
@[simp] theorem State.setStream_assembling (s : State) (n : StreamNo) (r : StreamRec) :
    (s.setStream n r).assembling = s.assembling := rfl
@[simp] theorem State.setStream_bits (s : State) (n : StreamNo) (r : StreamRec) : (s.setStream n r).bits = s.bits := rfl
@[simp] theorem State.setStream_freeDraws (s : State) (n : StreamNo) (r : StreamRec) :
    (s.setStream n r).freeDraws = s.freeDraws := rfl
@[simp] theorem State.setStream_pending (s : State) (n : StreamNo) (r : StreamRec) :
    (s.setStream n r).pending = s.pending := rfl
@[simp] theorem State.setStream_wires (s : State) (n : StreamNo) (r : StreamRec) :
    (s.setStream n r).wires = s.wires := rfl

/-! ### `State.setPub` -/

@[simp] theorem State.setPub_config (s : State) (n : StreamNo) (p : Option Pub) :
    (s.setPub n p).config = s.config := rfl
@[simp] theorem State.setPub_startCause (s : State) (n : StreamNo) (p : Option Pub) :
    (s.setPub n p).startCause = s.startCause := rfl
@[simp] theorem State.setPub_firstReset (s : State) (n : StreamNo) (p : Option Pub) :
    (s.setPub n p).firstReset = s.firstReset := rfl
@[simp] theorem State.setPub_supplyHold (s : State) (n : StreamNo) (p : Option Pub) :
    (s.setPub n p).supplyHold = s.supplyHold := rfl
@[simp] theorem State.setPub_pinHold (s : State) (n : StreamNo) (p : Option Pub) :
    (s.setPub n p).pinHold = s.pinHold := rfl
@[simp] theorem State.setPub_scsLow (s : State) (n : StreamNo) (p : Option Pub) :
    (s.setPub n p).scsLow = s.scsLow := rfl
@[simp] theorem State.setPub_txn (s : State) (n : StreamNo) (p : Option Pub) : (s.setPub n p).txn = s.txn := rfl
@[simp] theorem State.setPub_spi (s : State) (n : StreamNo) (p : Option Pub) : (s.setPub n p).spi = s.spi := rfl
@[simp] theorem State.setPub_notices (s : State) (n : StreamNo) (p : Option Pub) :
    (s.setPub n p).notices = s.notices := rfl
@[simp] theorem State.setPub_freeSlots (s : State) (n : StreamNo) (p : Option Pub) :
    (s.setPub n p).freeSlots = s.freeSlots := rfl
@[simp] theorem State.setPub_frameOffset (s : State) (n : StreamNo) (p : Option Pub) :
    (s.setPub n p).frameOffset = s.frameOffset := rfl
@[simp] theorem State.setPub_frameInProgress (s : State) (n : StreamNo) (p : Option Pub) :
    (s.setPub n p).frameInProgress = s.frameInProgress := rfl
@[simp] theorem State.setPub_frameBits (s : State) (n : StreamNo) (p : Option Pub) :
    (s.setPub n p).frameBits = s.frameBits := rfl
@[simp] theorem State.setPub_fsyncHigh (s : State) (n : StreamNo) (p : Option Pub) :
    (s.setPub n p).fsyncHigh = s.fsyncHigh := rfl
@[simp] theorem State.setPub_subs (s : State) (n : StreamNo) (p : Option Pub) : (s.setPub n p).subs = s.subs := rfl
@[simp] theorem State.setPub_markNo (s : State) (n : StreamNo) (p : Option Pub) :
    (s.setPub n p).markNo = s.markNo := rfl
@[simp] theorem State.setPub_markPending (s : State) (n : StreamNo) (p : Option Pub) :
    (s.setPub n p).markPending = s.markPending := rfl
@[simp] theorem State.setPub_lastMark (s : State) (n : StreamNo) (p : Option Pub) :
    (s.setPub n p).lastMark = s.lastMark := rfl
@[simp] theorem State.setPub_intervalTimer (s : State) (n : StreamNo) (p : Option Pub) :
    (s.setPub n p).intervalTimer = s.intervalTimer := rfl
@[simp] theorem State.setPub_roster (s : State) (n : StreamNo) (p : Option Pub) :
    (s.setPub n p).roster = s.roster := rfl
@[simp] theorem State.setPub_presenceTimer (s : State) (n : StreamNo) (p : Option Pub) :
    (s.setPub n p).presenceTimer = s.presenceTimer := rfl
@[simp] theorem State.setPub_offers (s : State) (n : StreamNo) (p : Option Pub) :
    (s.setPub n p).offers = s.offers := rfl
@[simp] theorem State.setPub_line (s : State) (n : StreamNo) (p : Option Pub) : (s.setPub n p).line = s.line := rfl
@[simp] theorem State.setPub_streak (s : State) (n : StreamNo) (p : Option Pub) :
    (s.setPub n p).streak = s.streak := rfl
@[simp] theorem State.setPub_listenTimer (s : State) (n : StreamNo) (p : Option Pub) :
    (s.setPub n p).listenTimer = s.listenTimer := rfl
@[simp] theorem State.setPub_lineIdle (s : State) (n : StreamNo) (p : Option Pub) :
    (s.setPub n p).lineIdle = s.lineIdle := rfl
@[simp] theorem State.setPub_assembling (s : State) (n : StreamNo) (p : Option Pub) :
    (s.setPub n p).assembling = s.assembling := rfl
@[simp] theorem State.setPub_bits (s : State) (n : StreamNo) (p : Option Pub) : (s.setPub n p).bits = s.bits := rfl
@[simp] theorem State.setPub_freeDraws (s : State) (n : StreamNo) (p : Option Pub) :
    (s.setPub n p).freeDraws = s.freeDraws := rfl
@[simp] theorem State.setPub_pending (s : State) (n : StreamNo) (p : Option Pub) :
    (s.setPub n p).pending = s.pending := rfl
@[simp] theorem State.setPub_wires (s : State) (n : StreamNo) (p : Option Pub) : (s.setPub n p).wires = s.wires := rfl

/-! ### `State.setGone` -/

@[simp] theorem State.setGone_config (s : State) (n : StreamNo) (g : Option GoneRange) :
    (s.setGone n g).config = s.config := rfl
@[simp] theorem State.setGone_startCause (s : State) (n : StreamNo) (g : Option GoneRange) :
    (s.setGone n g).startCause = s.startCause := rfl
@[simp] theorem State.setGone_firstReset (s : State) (n : StreamNo) (g : Option GoneRange) :
    (s.setGone n g).firstReset = s.firstReset := rfl
@[simp] theorem State.setGone_supplyHold (s : State) (n : StreamNo) (g : Option GoneRange) :
    (s.setGone n g).supplyHold = s.supplyHold := rfl
@[simp] theorem State.setGone_pinHold (s : State) (n : StreamNo) (g : Option GoneRange) :
    (s.setGone n g).pinHold = s.pinHold := rfl
@[simp] theorem State.setGone_scsLow (s : State) (n : StreamNo) (g : Option GoneRange) :
    (s.setGone n g).scsLow = s.scsLow := rfl
@[simp] theorem State.setGone_txn (s : State) (n : StreamNo) (g : Option GoneRange) : (s.setGone n g).txn = s.txn := rfl
@[simp] theorem State.setGone_spi (s : State) (n : StreamNo) (g : Option GoneRange) : (s.setGone n g).spi = s.spi := rfl
@[simp] theorem State.setGone_notices (s : State) (n : StreamNo) (g : Option GoneRange) :
    (s.setGone n g).notices = s.notices := rfl
@[simp] theorem State.setGone_freeSlots (s : State) (n : StreamNo) (g : Option GoneRange) :
    (s.setGone n g).freeSlots = s.freeSlots := rfl
@[simp] theorem State.setGone_frameOffset (s : State) (n : StreamNo) (g : Option GoneRange) :
    (s.setGone n g).frameOffset = s.frameOffset := rfl
@[simp] theorem State.setGone_frameInProgress (s : State) (n : StreamNo) (g : Option GoneRange) :
    (s.setGone n g).frameInProgress = s.frameInProgress := rfl
@[simp] theorem State.setGone_frameBits (s : State) (n : StreamNo) (g : Option GoneRange) :
    (s.setGone n g).frameBits = s.frameBits := rfl
@[simp] theorem State.setGone_fsyncHigh (s : State) (n : StreamNo) (g : Option GoneRange) :
    (s.setGone n g).fsyncHigh = s.fsyncHigh := rfl
@[simp] theorem State.setGone_subs (s : State) (n : StreamNo) (g : Option GoneRange) :
    (s.setGone n g).subs = s.subs := rfl
@[simp] theorem State.setGone_markNo (s : State) (n : StreamNo) (g : Option GoneRange) :
    (s.setGone n g).markNo = s.markNo := rfl
@[simp] theorem State.setGone_markPending (s : State) (n : StreamNo) (g : Option GoneRange) :
    (s.setGone n g).markPending = s.markPending := rfl
@[simp] theorem State.setGone_lastMark (s : State) (n : StreamNo) (g : Option GoneRange) :
    (s.setGone n g).lastMark = s.lastMark := rfl
@[simp] theorem State.setGone_intervalTimer (s : State) (n : StreamNo) (g : Option GoneRange) :
    (s.setGone n g).intervalTimer = s.intervalTimer := rfl
@[simp] theorem State.setGone_roster (s : State) (n : StreamNo) (g : Option GoneRange) :
    (s.setGone n g).roster = s.roster := rfl
@[simp] theorem State.setGone_presenceTimer (s : State) (n : StreamNo) (g : Option GoneRange) :
    (s.setGone n g).presenceTimer = s.presenceTimer := rfl
@[simp] theorem State.setGone_offers (s : State) (n : StreamNo) (g : Option GoneRange) :
    (s.setGone n g).offers = s.offers := rfl
@[simp] theorem State.setGone_line (s : State) (n : StreamNo) (g : Option GoneRange) :
    (s.setGone n g).line = s.line := rfl
@[simp] theorem State.setGone_streak (s : State) (n : StreamNo) (g : Option GoneRange) :
    (s.setGone n g).streak = s.streak := rfl
@[simp] theorem State.setGone_listenTimer (s : State) (n : StreamNo) (g : Option GoneRange) :
    (s.setGone n g).listenTimer = s.listenTimer := rfl
@[simp] theorem State.setGone_lineIdle (s : State) (n : StreamNo) (g : Option GoneRange) :
    (s.setGone n g).lineIdle = s.lineIdle := rfl
@[simp] theorem State.setGone_assembling (s : State) (n : StreamNo) (g : Option GoneRange) :
    (s.setGone n g).assembling = s.assembling := rfl
@[simp] theorem State.setGone_bits (s : State) (n : StreamNo) (g : Option GoneRange) :
    (s.setGone n g).bits = s.bits := rfl
@[simp] theorem State.setGone_freeDraws (s : State) (n : StreamNo) (g : Option GoneRange) :
    (s.setGone n g).freeDraws = s.freeDraws := rfl
@[simp] theorem State.setGone_pending (s : State) (n : StreamNo) (g : Option GoneRange) :
    (s.setGone n g).pending = s.pending := rfl
@[simp] theorem State.setGone_wires (s : State) (n : StreamNo) (g : Option GoneRange) :
    (s.setGone n g).wires = s.wires := rfl

/-! ### `State.setSub` -/

@[simp] theorem State.setSub_config (s : State) (h : SubHandle) (w : Option Sub) :
    (s.setSub h w).config = s.config := rfl
@[simp] theorem State.setSub_startCause (s : State) (h : SubHandle) (w : Option Sub) :
    (s.setSub h w).startCause = s.startCause := rfl
@[simp] theorem State.setSub_firstReset (s : State) (h : SubHandle) (w : Option Sub) :
    (s.setSub h w).firstReset = s.firstReset := rfl
@[simp] theorem State.setSub_supplyHold (s : State) (h : SubHandle) (w : Option Sub) :
    (s.setSub h w).supplyHold = s.supplyHold := rfl
@[simp] theorem State.setSub_pinHold (s : State) (h : SubHandle) (w : Option Sub) :
    (s.setSub h w).pinHold = s.pinHold := rfl
@[simp] theorem State.setSub_scsLow (s : State) (h : SubHandle) (w : Option Sub) :
    (s.setSub h w).scsLow = s.scsLow := rfl
@[simp] theorem State.setSub_txn (s : State) (h : SubHandle) (w : Option Sub) : (s.setSub h w).txn = s.txn := rfl
@[simp] theorem State.setSub_spi (s : State) (h : SubHandle) (w : Option Sub) : (s.setSub h w).spi = s.spi := rfl
@[simp] theorem State.setSub_notices (s : State) (h : SubHandle) (w : Option Sub) :
    (s.setSub h w).notices = s.notices := rfl
@[simp] theorem State.setSub_freeSlots (s : State) (h : SubHandle) (w : Option Sub) :
    (s.setSub h w).freeSlots = s.freeSlots := rfl
@[simp] theorem State.setSub_streams (s : State) (h : SubHandle) (w : Option Sub) :
    (s.setSub h w).streams = s.streams := rfl
@[simp] theorem State.setSub_frameOffset (s : State) (h : SubHandle) (w : Option Sub) :
    (s.setSub h w).frameOffset = s.frameOffset := rfl
@[simp] theorem State.setSub_frameInProgress (s : State) (h : SubHandle) (w : Option Sub) :
    (s.setSub h w).frameInProgress = s.frameInProgress := rfl
@[simp] theorem State.setSub_frameBits (s : State) (h : SubHandle) (w : Option Sub) :
    (s.setSub h w).frameBits = s.frameBits := rfl
@[simp] theorem State.setSub_fsyncHigh (s : State) (h : SubHandle) (w : Option Sub) :
    (s.setSub h w).fsyncHigh = s.fsyncHigh := rfl
@[simp] theorem State.setSub_markNo (s : State) (h : SubHandle) (w : Option Sub) :
    (s.setSub h w).markNo = s.markNo := rfl
@[simp] theorem State.setSub_markPending (s : State) (h : SubHandle) (w : Option Sub) :
    (s.setSub h w).markPending = s.markPending := rfl
@[simp] theorem State.setSub_lastMark (s : State) (h : SubHandle) (w : Option Sub) :
    (s.setSub h w).lastMark = s.lastMark := rfl
@[simp] theorem State.setSub_intervalTimer (s : State) (h : SubHandle) (w : Option Sub) :
    (s.setSub h w).intervalTimer = s.intervalTimer := rfl
@[simp] theorem State.setSub_roster (s : State) (h : SubHandle) (w : Option Sub) :
    (s.setSub h w).roster = s.roster := rfl
@[simp] theorem State.setSub_presenceTimer (s : State) (h : SubHandle) (w : Option Sub) :
    (s.setSub h w).presenceTimer = s.presenceTimer := rfl
@[simp] theorem State.setSub_offers (s : State) (h : SubHandle) (w : Option Sub) :
    (s.setSub h w).offers = s.offers := rfl
@[simp] theorem State.setSub_line (s : State) (h : SubHandle) (w : Option Sub) : (s.setSub h w).line = s.line := rfl
@[simp] theorem State.setSub_streak (s : State) (h : SubHandle) (w : Option Sub) :
    (s.setSub h w).streak = s.streak := rfl
@[simp] theorem State.setSub_listenTimer (s : State) (h : SubHandle) (w : Option Sub) :
    (s.setSub h w).listenTimer = s.listenTimer := rfl
@[simp] theorem State.setSub_lineIdle (s : State) (h : SubHandle) (w : Option Sub) :
    (s.setSub h w).lineIdle = s.lineIdle := rfl
@[simp] theorem State.setSub_assembling (s : State) (h : SubHandle) (w : Option Sub) :
    (s.setSub h w).assembling = s.assembling := rfl
@[simp] theorem State.setSub_bits (s : State) (h : SubHandle) (w : Option Sub) : (s.setSub h w).bits = s.bits := rfl
@[simp] theorem State.setSub_freeDraws (s : State) (h : SubHandle) (w : Option Sub) :
    (s.setSub h w).freeDraws = s.freeDraws := rfl
@[simp] theorem State.setSub_pending (s : State) (h : SubHandle) (w : Option Sub) :
    (s.setSub h w).pending = s.pending := rfl
@[simp] theorem State.setSub_wires (s : State) (h : SubHandle) (w : Option Sub) : (s.setSub h w).wires = s.wires := rfl

/-! ### `State.withdrawWhere` -/

@[simp] theorem State.withdrawWhere_config (s : State) (f : OfferItem → Bool) :
    (s.withdrawWhere f).config = s.config := rfl
@[simp] theorem State.withdrawWhere_startCause (s : State) (f : OfferItem → Bool) :
    (s.withdrawWhere f).startCause = s.startCause := rfl
@[simp] theorem State.withdrawWhere_firstReset (s : State) (f : OfferItem → Bool) :
    (s.withdrawWhere f).firstReset = s.firstReset := rfl
@[simp] theorem State.withdrawWhere_supplyHold (s : State) (f : OfferItem → Bool) :
    (s.withdrawWhere f).supplyHold = s.supplyHold := rfl
@[simp] theorem State.withdrawWhere_pinHold (s : State) (f : OfferItem → Bool) :
    (s.withdrawWhere f).pinHold = s.pinHold := rfl
@[simp] theorem State.withdrawWhere_scsLow (s : State) (f : OfferItem → Bool) :
    (s.withdrawWhere f).scsLow = s.scsLow := rfl
@[simp] theorem State.withdrawWhere_txn (s : State) (f : OfferItem → Bool) : (s.withdrawWhere f).txn = s.txn := rfl
@[simp] theorem State.withdrawWhere_spi (s : State) (f : OfferItem → Bool) : (s.withdrawWhere f).spi = s.spi := rfl
@[simp] theorem State.withdrawWhere_notices (s : State) (f : OfferItem → Bool) :
    (s.withdrawWhere f).notices = s.notices := rfl
@[simp] theorem State.withdrawWhere_freeSlots (s : State) (f : OfferItem → Bool) :
    (s.withdrawWhere f).freeSlots = s.freeSlots := rfl
@[simp] theorem State.withdrawWhere_streams (s : State) (f : OfferItem → Bool) :
    (s.withdrawWhere f).streams = s.streams := rfl
@[simp] theorem State.withdrawWhere_frameOffset (s : State) (f : OfferItem → Bool) :
    (s.withdrawWhere f).frameOffset = s.frameOffset := rfl
@[simp] theorem State.withdrawWhere_frameInProgress (s : State) (f : OfferItem → Bool) :
    (s.withdrawWhere f).frameInProgress = s.frameInProgress := rfl
@[simp] theorem State.withdrawWhere_frameBits (s : State) (f : OfferItem → Bool) :
    (s.withdrawWhere f).frameBits = s.frameBits := rfl
@[simp] theorem State.withdrawWhere_fsyncHigh (s : State) (f : OfferItem → Bool) :
    (s.withdrawWhere f).fsyncHigh = s.fsyncHigh := rfl
@[simp] theorem State.withdrawWhere_subs (s : State) (f : OfferItem → Bool) : (s.withdrawWhere f).subs = s.subs := rfl
@[simp] theorem State.withdrawWhere_markNo (s : State) (f : OfferItem → Bool) :
    (s.withdrawWhere f).markNo = s.markNo := rfl
@[simp] theorem State.withdrawWhere_markPending (s : State) (f : OfferItem → Bool) :
    (s.withdrawWhere f).markPending = s.markPending := rfl
@[simp] theorem State.withdrawWhere_lastMark (s : State) (f : OfferItem → Bool) :
    (s.withdrawWhere f).lastMark = s.lastMark := rfl
@[simp] theorem State.withdrawWhere_intervalTimer (s : State) (f : OfferItem → Bool) :
    (s.withdrawWhere f).intervalTimer = s.intervalTimer := rfl
@[simp] theorem State.withdrawWhere_roster (s : State) (f : OfferItem → Bool) :
    (s.withdrawWhere f).roster = s.roster := rfl
@[simp] theorem State.withdrawWhere_presenceTimer (s : State) (f : OfferItem → Bool) :
    (s.withdrawWhere f).presenceTimer = s.presenceTimer := rfl
@[simp] theorem State.withdrawWhere_line (s : State) (f : OfferItem → Bool) : (s.withdrawWhere f).line = s.line := rfl
@[simp] theorem State.withdrawWhere_streak (s : State) (f : OfferItem → Bool) :
    (s.withdrawWhere f).streak = s.streak := rfl
@[simp] theorem State.withdrawWhere_listenTimer (s : State) (f : OfferItem → Bool) :
    (s.withdrawWhere f).listenTimer = s.listenTimer := rfl
@[simp] theorem State.withdrawWhere_lineIdle (s : State) (f : OfferItem → Bool) :
    (s.withdrawWhere f).lineIdle = s.lineIdle := rfl
@[simp] theorem State.withdrawWhere_assembling (s : State) (f : OfferItem → Bool) :
    (s.withdrawWhere f).assembling = s.assembling := rfl
@[simp] theorem State.withdrawWhere_bits (s : State) (f : OfferItem → Bool) : (s.withdrawWhere f).bits = s.bits := rfl
@[simp] theorem State.withdrawWhere_freeDraws (s : State) (f : OfferItem → Bool) :
    (s.withdrawWhere f).freeDraws = s.freeDraws := rfl
@[simp] theorem State.withdrawWhere_pending (s : State) (f : OfferItem → Bool) :
    (s.withdrawWhere f).pending = s.pending := rfl
@[simp] theorem State.withdrawWhere_wires (s : State) (f : OfferItem → Bool) :
    (s.withdrawWhere f).wires = s.wires := rfl

/-! ### `State.withdraw` -/

@[simp] theorem State.withdraw_config (s : State) (i : OfferItem) : (s.withdraw i).config = s.config := rfl
@[simp] theorem State.withdraw_startCause (s : State) (i : OfferItem) : (s.withdraw i).startCause = s.startCause := rfl
@[simp] theorem State.withdraw_firstReset (s : State) (i : OfferItem) : (s.withdraw i).firstReset = s.firstReset := rfl
@[simp] theorem State.withdraw_supplyHold (s : State) (i : OfferItem) : (s.withdraw i).supplyHold = s.supplyHold := rfl
@[simp] theorem State.withdraw_pinHold (s : State) (i : OfferItem) : (s.withdraw i).pinHold = s.pinHold := rfl
@[simp] theorem State.withdraw_scsLow (s : State) (i : OfferItem) : (s.withdraw i).scsLow = s.scsLow := rfl
@[simp] theorem State.withdraw_txn (s : State) (i : OfferItem) : (s.withdraw i).txn = s.txn := rfl
@[simp] theorem State.withdraw_spi (s : State) (i : OfferItem) : (s.withdraw i).spi = s.spi := rfl
@[simp] theorem State.withdraw_notices (s : State) (i : OfferItem) : (s.withdraw i).notices = s.notices := rfl
@[simp] theorem State.withdraw_freeSlots (s : State) (i : OfferItem) : (s.withdraw i).freeSlots = s.freeSlots := rfl
@[simp] theorem State.withdraw_streams (s : State) (i : OfferItem) : (s.withdraw i).streams = s.streams := rfl
@[simp] theorem State.withdraw_frameOffset (s : State) (i : OfferItem) :
    (s.withdraw i).frameOffset = s.frameOffset := rfl
@[simp] theorem State.withdraw_frameInProgress (s : State) (i : OfferItem) :
    (s.withdraw i).frameInProgress = s.frameInProgress := rfl
@[simp] theorem State.withdraw_frameBits (s : State) (i : OfferItem) : (s.withdraw i).frameBits = s.frameBits := rfl
@[simp] theorem State.withdraw_fsyncHigh (s : State) (i : OfferItem) : (s.withdraw i).fsyncHigh = s.fsyncHigh := rfl
@[simp] theorem State.withdraw_subs (s : State) (i : OfferItem) : (s.withdraw i).subs = s.subs := rfl
@[simp] theorem State.withdraw_markNo (s : State) (i : OfferItem) : (s.withdraw i).markNo = s.markNo := rfl
@[simp] theorem State.withdraw_markPending (s : State) (i : OfferItem) :
    (s.withdraw i).markPending = s.markPending := rfl
@[simp] theorem State.withdraw_lastMark (s : State) (i : OfferItem) : (s.withdraw i).lastMark = s.lastMark := rfl
@[simp] theorem State.withdraw_intervalTimer (s : State) (i : OfferItem) :
    (s.withdraw i).intervalTimer = s.intervalTimer := rfl
@[simp] theorem State.withdraw_roster (s : State) (i : OfferItem) : (s.withdraw i).roster = s.roster := rfl
@[simp] theorem State.withdraw_presenceTimer (s : State) (i : OfferItem) :
    (s.withdraw i).presenceTimer = s.presenceTimer := rfl
@[simp] theorem State.withdraw_line (s : State) (i : OfferItem) : (s.withdraw i).line = s.line := rfl
@[simp] theorem State.withdraw_streak (s : State) (i : OfferItem) : (s.withdraw i).streak = s.streak := rfl
@[simp] theorem State.withdraw_listenTimer (s : State) (i : OfferItem) :
    (s.withdraw i).listenTimer = s.listenTimer := rfl
@[simp] theorem State.withdraw_lineIdle (s : State) (i : OfferItem) : (s.withdraw i).lineIdle = s.lineIdle := rfl
@[simp] theorem State.withdraw_assembling (s : State) (i : OfferItem) : (s.withdraw i).assembling = s.assembling := rfl
@[simp] theorem State.withdraw_bits (s : State) (i : OfferItem) : (s.withdraw i).bits = s.bits := rfl
@[simp] theorem State.withdraw_freeDraws (s : State) (i : OfferItem) : (s.withdraw i).freeDraws = s.freeDraws := rfl
@[simp] theorem State.withdraw_pending (s : State) (i : OfferItem) : (s.withdraw i).pending = s.pending := rfl
@[simp] theorem State.withdraw_wires (s : State) (i : OfferItem) : (s.withdraw i).wires = s.wires := rfl

/-! ### `State.withdrawAsk` -/

@[simp] theorem State.withdrawAsk_config (s : State) (h : SubHandle) : (s.withdrawAsk h).config = s.config := rfl
@[simp] theorem State.withdrawAsk_startCause (s : State) (h : SubHandle) :
    (s.withdrawAsk h).startCause = s.startCause := rfl
@[simp] theorem State.withdrawAsk_firstReset (s : State) (h : SubHandle) :
    (s.withdrawAsk h).firstReset = s.firstReset := rfl
@[simp] theorem State.withdrawAsk_supplyHold (s : State) (h : SubHandle) :
    (s.withdrawAsk h).supplyHold = s.supplyHold := rfl
@[simp] theorem State.withdrawAsk_pinHold (s : State) (h : SubHandle) : (s.withdrawAsk h).pinHold = s.pinHold := rfl
@[simp] theorem State.withdrawAsk_scsLow (s : State) (h : SubHandle) : (s.withdrawAsk h).scsLow = s.scsLow := rfl
@[simp] theorem State.withdrawAsk_txn (s : State) (h : SubHandle) : (s.withdrawAsk h).txn = s.txn := rfl
@[simp] theorem State.withdrawAsk_spi (s : State) (h : SubHandle) : (s.withdrawAsk h).spi = s.spi := rfl
@[simp] theorem State.withdrawAsk_notices (s : State) (h : SubHandle) : (s.withdrawAsk h).notices = s.notices := rfl
@[simp] theorem State.withdrawAsk_freeSlots (s : State) (h : SubHandle) :
    (s.withdrawAsk h).freeSlots = s.freeSlots := rfl
@[simp] theorem State.withdrawAsk_streams (s : State) (h : SubHandle) : (s.withdrawAsk h).streams = s.streams := rfl
@[simp] theorem State.withdrawAsk_frameOffset (s : State) (h : SubHandle) :
    (s.withdrawAsk h).frameOffset = s.frameOffset := rfl
@[simp] theorem State.withdrawAsk_frameInProgress (s : State) (h : SubHandle) :
    (s.withdrawAsk h).frameInProgress = s.frameInProgress := rfl
@[simp] theorem State.withdrawAsk_frameBits (s : State) (h : SubHandle) :
    (s.withdrawAsk h).frameBits = s.frameBits := rfl
@[simp] theorem State.withdrawAsk_fsyncHigh (s : State) (h : SubHandle) :
    (s.withdrawAsk h).fsyncHigh = s.fsyncHigh := rfl
@[simp] theorem State.withdrawAsk_subs (s : State) (h : SubHandle) : (s.withdrawAsk h).subs = s.subs := rfl
@[simp] theorem State.withdrawAsk_markNo (s : State) (h : SubHandle) : (s.withdrawAsk h).markNo = s.markNo := rfl
@[simp] theorem State.withdrawAsk_markPending (s : State) (h : SubHandle) :
    (s.withdrawAsk h).markPending = s.markPending := rfl
@[simp] theorem State.withdrawAsk_lastMark (s : State) (h : SubHandle) : (s.withdrawAsk h).lastMark = s.lastMark := rfl
@[simp] theorem State.withdrawAsk_intervalTimer (s : State) (h : SubHandle) :
    (s.withdrawAsk h).intervalTimer = s.intervalTimer := rfl
@[simp] theorem State.withdrawAsk_roster (s : State) (h : SubHandle) : (s.withdrawAsk h).roster = s.roster := rfl
@[simp] theorem State.withdrawAsk_presenceTimer (s : State) (h : SubHandle) :
    (s.withdrawAsk h).presenceTimer = s.presenceTimer := rfl
@[simp] theorem State.withdrawAsk_line (s : State) (h : SubHandle) : (s.withdrawAsk h).line = s.line := rfl
@[simp] theorem State.withdrawAsk_streak (s : State) (h : SubHandle) : (s.withdrawAsk h).streak = s.streak := rfl
@[simp] theorem State.withdrawAsk_listenTimer (s : State) (h : SubHandle) :
    (s.withdrawAsk h).listenTimer = s.listenTimer := rfl
@[simp] theorem State.withdrawAsk_lineIdle (s : State) (h : SubHandle) : (s.withdrawAsk h).lineIdle = s.lineIdle := rfl
@[simp] theorem State.withdrawAsk_assembling (s : State) (h : SubHandle) :
    (s.withdrawAsk h).assembling = s.assembling := rfl
@[simp] theorem State.withdrawAsk_bits (s : State) (h : SubHandle) : (s.withdrawAsk h).bits = s.bits := rfl
@[simp] theorem State.withdrawAsk_freeDraws (s : State) (h : SubHandle) :
    (s.withdrawAsk h).freeDraws = s.freeDraws := rfl
@[simp] theorem State.withdrawAsk_pending (s : State) (h : SubHandle) : (s.withdrawAsk h).pending = s.pending := rfl
@[simp] theorem State.withdrawAsk_wires (s : State) (h : SubHandle) : (s.withdrawAsk h).wires = s.wires := rfl

/-! ### `State.withdrawHello` -/

@[simp] theorem State.withdrawHello_config (s : State) (x : HelloSort) : (s.withdrawHello x).config = s.config := rfl
@[simp] theorem State.withdrawHello_startCause (s : State) (x : HelloSort) :
    (s.withdrawHello x).startCause = s.startCause := rfl
@[simp] theorem State.withdrawHello_firstReset (s : State) (x : HelloSort) :
    (s.withdrawHello x).firstReset = s.firstReset := rfl
@[simp] theorem State.withdrawHello_supplyHold (s : State) (x : HelloSort) :
    (s.withdrawHello x).supplyHold = s.supplyHold := rfl
@[simp] theorem State.withdrawHello_pinHold (s : State) (x : HelloSort) : (s.withdrawHello x).pinHold = s.pinHold := rfl
@[simp] theorem State.withdrawHello_scsLow (s : State) (x : HelloSort) : (s.withdrawHello x).scsLow = s.scsLow := rfl
@[simp] theorem State.withdrawHello_txn (s : State) (x : HelloSort) : (s.withdrawHello x).txn = s.txn := rfl
@[simp] theorem State.withdrawHello_spi (s : State) (x : HelloSort) : (s.withdrawHello x).spi = s.spi := rfl
@[simp] theorem State.withdrawHello_notices (s : State) (x : HelloSort) : (s.withdrawHello x).notices = s.notices := rfl
@[simp] theorem State.withdrawHello_freeSlots (s : State) (x : HelloSort) :
    (s.withdrawHello x).freeSlots = s.freeSlots := rfl
@[simp] theorem State.withdrawHello_streams (s : State) (x : HelloSort) : (s.withdrawHello x).streams = s.streams := rfl
@[simp] theorem State.withdrawHello_frameOffset (s : State) (x : HelloSort) :
    (s.withdrawHello x).frameOffset = s.frameOffset := rfl
@[simp] theorem State.withdrawHello_frameInProgress (s : State) (x : HelloSort) :
    (s.withdrawHello x).frameInProgress = s.frameInProgress := rfl
@[simp] theorem State.withdrawHello_frameBits (s : State) (x : HelloSort) :
    (s.withdrawHello x).frameBits = s.frameBits := rfl
@[simp] theorem State.withdrawHello_fsyncHigh (s : State) (x : HelloSort) :
    (s.withdrawHello x).fsyncHigh = s.fsyncHigh := rfl
@[simp] theorem State.withdrawHello_subs (s : State) (x : HelloSort) : (s.withdrawHello x).subs = s.subs := rfl
@[simp] theorem State.withdrawHello_markNo (s : State) (x : HelloSort) : (s.withdrawHello x).markNo = s.markNo := rfl
@[simp] theorem State.withdrawHello_markPending (s : State) (x : HelloSort) :
    (s.withdrawHello x).markPending = s.markPending := rfl
@[simp] theorem State.withdrawHello_lastMark (s : State) (x : HelloSort) :
    (s.withdrawHello x).lastMark = s.lastMark := rfl
@[simp] theorem State.withdrawHello_intervalTimer (s : State) (x : HelloSort) :
    (s.withdrawHello x).intervalTimer = s.intervalTimer := rfl
@[simp] theorem State.withdrawHello_roster (s : State) (x : HelloSort) : (s.withdrawHello x).roster = s.roster := rfl
@[simp] theorem State.withdrawHello_presenceTimer (s : State) (x : HelloSort) :
    (s.withdrawHello x).presenceTimer = s.presenceTimer := rfl
@[simp] theorem State.withdrawHello_line (s : State) (x : HelloSort) : (s.withdrawHello x).line = s.line := rfl
@[simp] theorem State.withdrawHello_streak (s : State) (x : HelloSort) : (s.withdrawHello x).streak = s.streak := rfl
@[simp] theorem State.withdrawHello_listenTimer (s : State) (x : HelloSort) :
    (s.withdrawHello x).listenTimer = s.listenTimer := rfl
@[simp] theorem State.withdrawHello_lineIdle (s : State) (x : HelloSort) :
    (s.withdrawHello x).lineIdle = s.lineIdle := rfl
@[simp] theorem State.withdrawHello_assembling (s : State) (x : HelloSort) :
    (s.withdrawHello x).assembling = s.assembling := rfl
@[simp] theorem State.withdrawHello_bits (s : State) (x : HelloSort) : (s.withdrawHello x).bits = s.bits := rfl
@[simp] theorem State.withdrawHello_freeDraws (s : State) (x : HelloSort) :
    (s.withdrawHello x).freeDraws = s.freeDraws := rfl
@[simp] theorem State.withdrawHello_pending (s : State) (x : HelloSort) : (s.withdrawHello x).pending = s.pending := rfl
@[simp] theorem State.withdrawHello_wires (s : State) (x : HelloSort) : (s.withdrawHello x).wires = s.wires := rfl

/-! ### `State.respond` -/

@[simp] theorem State.respond_config (s : State) (r : Response) : (s.respond r).config = s.config := rfl
@[simp] theorem State.respond_startCause (s : State) (r : Response) : (s.respond r).startCause = s.startCause := rfl
@[simp] theorem State.respond_firstReset (s : State) (r : Response) : (s.respond r).firstReset = s.firstReset := rfl
@[simp] theorem State.respond_supplyHold (s : State) (r : Response) : (s.respond r).supplyHold = s.supplyHold := rfl
@[simp] theorem State.respond_pinHold (s : State) (r : Response) : (s.respond r).pinHold = s.pinHold := rfl
@[simp] theorem State.respond_scsLow (s : State) (r : Response) : (s.respond r).scsLow = s.scsLow := rfl
@[simp] theorem State.respond_spi (s : State) (r : Response) : (s.respond r).spi = s.spi := rfl
@[simp] theorem State.respond_notices (s : State) (r : Response) : (s.respond r).notices = s.notices := rfl
@[simp] theorem State.respond_freeSlots (s : State) (r : Response) : (s.respond r).freeSlots = s.freeSlots := rfl
@[simp] theorem State.respond_streams (s : State) (r : Response) : (s.respond r).streams = s.streams := rfl
@[simp] theorem State.respond_frameOffset (s : State) (r : Response) : (s.respond r).frameOffset = s.frameOffset := rfl
@[simp] theorem State.respond_frameInProgress (s : State) (r : Response) :
    (s.respond r).frameInProgress = s.frameInProgress := rfl
@[simp] theorem State.respond_frameBits (s : State) (r : Response) : (s.respond r).frameBits = s.frameBits := rfl
@[simp] theorem State.respond_fsyncHigh (s : State) (r : Response) : (s.respond r).fsyncHigh = s.fsyncHigh := rfl
@[simp] theorem State.respond_subs (s : State) (r : Response) : (s.respond r).subs = s.subs := rfl
@[simp] theorem State.respond_markNo (s : State) (r : Response) : (s.respond r).markNo = s.markNo := rfl
@[simp] theorem State.respond_markPending (s : State) (r : Response) : (s.respond r).markPending = s.markPending := rfl
@[simp] theorem State.respond_lastMark (s : State) (r : Response) : (s.respond r).lastMark = s.lastMark := rfl
@[simp] theorem State.respond_intervalTimer (s : State) (r : Response) :
    (s.respond r).intervalTimer = s.intervalTimer := rfl
@[simp] theorem State.respond_roster (s : State) (r : Response) : (s.respond r).roster = s.roster := rfl
@[simp] theorem State.respond_presenceTimer (s : State) (r : Response) :
    (s.respond r).presenceTimer = s.presenceTimer := rfl
@[simp] theorem State.respond_offers (s : State) (r : Response) : (s.respond r).offers = s.offers := rfl
@[simp] theorem State.respond_line (s : State) (r : Response) : (s.respond r).line = s.line := rfl
@[simp] theorem State.respond_streak (s : State) (r : Response) : (s.respond r).streak = s.streak := rfl
@[simp] theorem State.respond_listenTimer (s : State) (r : Response) : (s.respond r).listenTimer = s.listenTimer := rfl
@[simp] theorem State.respond_lineIdle (s : State) (r : Response) : (s.respond r).lineIdle = s.lineIdle := rfl
@[simp] theorem State.respond_assembling (s : State) (r : Response) : (s.respond r).assembling = s.assembling := rfl
@[simp] theorem State.respond_bits (s : State) (r : Response) : (s.respond r).bits = s.bits := rfl
@[simp] theorem State.respond_freeDraws (s : State) (r : Response) : (s.respond r).freeDraws = s.freeDraws := rfl
@[simp] theorem State.respond_pending (s : State) (r : Response) : (s.respond r).pending = s.pending := rfl
@[simp] theorem State.respond_wires (s : State) (r : Response) : (s.respond r).wires = s.wires := rfl

/-! ### `State.answers` -/

@[simp] theorem State.answers_config (s : State) (bs : List Byte) : (s.answers bs).config = s.config := rfl
@[simp] theorem State.answers_startCause (s : State) (bs : List Byte) : (s.answers bs).startCause = s.startCause := rfl
@[simp] theorem State.answers_firstReset (s : State) (bs : List Byte) : (s.answers bs).firstReset = s.firstReset := rfl
@[simp] theorem State.answers_supplyHold (s : State) (bs : List Byte) : (s.answers bs).supplyHold = s.supplyHold := rfl
@[simp] theorem State.answers_pinHold (s : State) (bs : List Byte) : (s.answers bs).pinHold = s.pinHold := rfl
@[simp] theorem State.answers_scsLow (s : State) (bs : List Byte) : (s.answers bs).scsLow = s.scsLow := rfl
@[simp] theorem State.answers_spi (s : State) (bs : List Byte) : (s.answers bs).spi = s.spi := rfl
@[simp] theorem State.answers_notices (s : State) (bs : List Byte) : (s.answers bs).notices = s.notices := rfl
@[simp] theorem State.answers_freeSlots (s : State) (bs : List Byte) : (s.answers bs).freeSlots = s.freeSlots := rfl
@[simp] theorem State.answers_streams (s : State) (bs : List Byte) : (s.answers bs).streams = s.streams := rfl
@[simp] theorem State.answers_frameOffset (s : State) (bs : List Byte) :
    (s.answers bs).frameOffset = s.frameOffset := rfl
@[simp] theorem State.answers_frameInProgress (s : State) (bs : List Byte) :
    (s.answers bs).frameInProgress = s.frameInProgress := rfl
@[simp] theorem State.answers_frameBits (s : State) (bs : List Byte) : (s.answers bs).frameBits = s.frameBits := rfl
@[simp] theorem State.answers_fsyncHigh (s : State) (bs : List Byte) : (s.answers bs).fsyncHigh = s.fsyncHigh := rfl
@[simp] theorem State.answers_subs (s : State) (bs : List Byte) : (s.answers bs).subs = s.subs := rfl
@[simp] theorem State.answers_markNo (s : State) (bs : List Byte) : (s.answers bs).markNo = s.markNo := rfl
@[simp] theorem State.answers_markPending (s : State) (bs : List Byte) :
    (s.answers bs).markPending = s.markPending := rfl
@[simp] theorem State.answers_lastMark (s : State) (bs : List Byte) : (s.answers bs).lastMark = s.lastMark := rfl
@[simp] theorem State.answers_intervalTimer (s : State) (bs : List Byte) :
    (s.answers bs).intervalTimer = s.intervalTimer := rfl
@[simp] theorem State.answers_roster (s : State) (bs : List Byte) : (s.answers bs).roster = s.roster := rfl
@[simp] theorem State.answers_presenceTimer (s : State) (bs : List Byte) :
    (s.answers bs).presenceTimer = s.presenceTimer := rfl
@[simp] theorem State.answers_offers (s : State) (bs : List Byte) : (s.answers bs).offers = s.offers := rfl
@[simp] theorem State.answers_line (s : State) (bs : List Byte) : (s.answers bs).line = s.line := rfl
@[simp] theorem State.answers_streak (s : State) (bs : List Byte) : (s.answers bs).streak = s.streak := rfl
@[simp] theorem State.answers_listenTimer (s : State) (bs : List Byte) :
    (s.answers bs).listenTimer = s.listenTimer := rfl
@[simp] theorem State.answers_lineIdle (s : State) (bs : List Byte) : (s.answers bs).lineIdle = s.lineIdle := rfl
@[simp] theorem State.answers_assembling (s : State) (bs : List Byte) : (s.answers bs).assembling = s.assembling := rfl
@[simp] theorem State.answers_bits (s : State) (bs : List Byte) : (s.answers bs).bits = s.bits := rfl
@[simp] theorem State.answers_freeDraws (s : State) (bs : List Byte) : (s.answers bs).freeDraws = s.freeDraws := rfl
@[simp] theorem State.answers_pending (s : State) (bs : List Byte) : (s.answers bs).pending = s.pending := rfl
@[simp] theorem State.answers_wires (s : State) (bs : List Byte) : (s.answers bs).wires = s.wires := rfl

/-! ### `State.postLine` -/

@[simp] theorem State.postLine_config (s : State) : (s.postLine).config = s.config := rfl
@[simp] theorem State.postLine_startCause (s : State) : (s.postLine).startCause = s.startCause := rfl
@[simp] theorem State.postLine_firstReset (s : State) : (s.postLine).firstReset = s.firstReset := rfl
@[simp] theorem State.postLine_supplyHold (s : State) : (s.postLine).supplyHold = s.supplyHold := rfl
@[simp] theorem State.postLine_pinHold (s : State) : (s.postLine).pinHold = s.pinHold := rfl
@[simp] theorem State.postLine_scsLow (s : State) : (s.postLine).scsLow = s.scsLow := rfl
@[simp] theorem State.postLine_txn (s : State) : (s.postLine).txn = s.txn := rfl
@[simp] theorem State.postLine_spi (s : State) : (s.postLine).spi = s.spi := rfl
@[simp] theorem State.postLine_freeSlots (s : State) : (s.postLine).freeSlots = s.freeSlots := rfl
@[simp] theorem State.postLine_streams (s : State) : (s.postLine).streams = s.streams := rfl
@[simp] theorem State.postLine_frameOffset (s : State) : (s.postLine).frameOffset = s.frameOffset := rfl
@[simp] theorem State.postLine_frameInProgress (s : State) : (s.postLine).frameInProgress = s.frameInProgress := rfl
@[simp] theorem State.postLine_frameBits (s : State) : (s.postLine).frameBits = s.frameBits := rfl
@[simp] theorem State.postLine_fsyncHigh (s : State) : (s.postLine).fsyncHigh = s.fsyncHigh := rfl
@[simp] theorem State.postLine_subs (s : State) : (s.postLine).subs = s.subs := rfl
@[simp] theorem State.postLine_markNo (s : State) : (s.postLine).markNo = s.markNo := rfl
@[simp] theorem State.postLine_markPending (s : State) : (s.postLine).markPending = s.markPending := rfl
@[simp] theorem State.postLine_lastMark (s : State) : (s.postLine).lastMark = s.lastMark := rfl
@[simp] theorem State.postLine_intervalTimer (s : State) : (s.postLine).intervalTimer = s.intervalTimer := rfl
@[simp] theorem State.postLine_roster (s : State) : (s.postLine).roster = s.roster := rfl
@[simp] theorem State.postLine_presenceTimer (s : State) : (s.postLine).presenceTimer = s.presenceTimer := rfl
@[simp] theorem State.postLine_offers (s : State) : (s.postLine).offers = s.offers := rfl
@[simp] theorem State.postLine_line (s : State) : (s.postLine).line = s.line := rfl
@[simp] theorem State.postLine_streak (s : State) : (s.postLine).streak = s.streak := rfl
@[simp] theorem State.postLine_listenTimer (s : State) : (s.postLine).listenTimer = s.listenTimer := rfl
@[simp] theorem State.postLine_lineIdle (s : State) : (s.postLine).lineIdle = s.lineIdle := rfl
@[simp] theorem State.postLine_assembling (s : State) : (s.postLine).assembling = s.assembling := rfl
@[simp] theorem State.postLine_bits (s : State) : (s.postLine).bits = s.bits := rfl
@[simp] theorem State.postLine_freeDraws (s : State) : (s.postLine).freeDraws = s.freeDraws := rfl
@[simp] theorem State.postLine_pending (s : State) : (s.postLine).pending = s.pending := rfl
@[simp] theorem State.postLine_wires (s : State) : (s.postLine).wires = s.wires := rfl

/-! ### `State.endReception` -/

@[simp] theorem State.endReception_config (s : State) : (s.endReception).config = s.config := rfl
@[simp] theorem State.endReception_startCause (s : State) : (s.endReception).startCause = s.startCause := rfl
@[simp] theorem State.endReception_firstReset (s : State) : (s.endReception).firstReset = s.firstReset := rfl
@[simp] theorem State.endReception_supplyHold (s : State) : (s.endReception).supplyHold = s.supplyHold := rfl
@[simp] theorem State.endReception_pinHold (s : State) : (s.endReception).pinHold = s.pinHold := rfl
@[simp] theorem State.endReception_scsLow (s : State) : (s.endReception).scsLow = s.scsLow := rfl
@[simp] theorem State.endReception_txn (s : State) : (s.endReception).txn = s.txn := rfl
@[simp] theorem State.endReception_spi (s : State) : (s.endReception).spi = s.spi := rfl
@[simp] theorem State.endReception_notices (s : State) : (s.endReception).notices = s.notices := rfl
@[simp] theorem State.endReception_freeSlots (s : State) : (s.endReception).freeSlots = s.freeSlots := rfl
@[simp] theorem State.endReception_streams (s : State) : (s.endReception).streams = s.streams := rfl
@[simp] theorem State.endReception_frameOffset (s : State) : (s.endReception).frameOffset = s.frameOffset := rfl
@[simp] theorem State.endReception_frameInProgress (s : State) :
    (s.endReception).frameInProgress = s.frameInProgress := rfl
@[simp] theorem State.endReception_frameBits (s : State) : (s.endReception).frameBits = s.frameBits := rfl
@[simp] theorem State.endReception_fsyncHigh (s : State) : (s.endReception).fsyncHigh = s.fsyncHigh := rfl
@[simp] theorem State.endReception_subs (s : State) : (s.endReception).subs = s.subs := rfl
@[simp] theorem State.endReception_markNo (s : State) : (s.endReception).markNo = s.markNo := rfl
@[simp] theorem State.endReception_markPending (s : State) : (s.endReception).markPending = s.markPending := rfl
@[simp] theorem State.endReception_lastMark (s : State) : (s.endReception).lastMark = s.lastMark := rfl
@[simp] theorem State.endReception_intervalTimer (s : State) : (s.endReception).intervalTimer = s.intervalTimer := rfl
@[simp] theorem State.endReception_roster (s : State) : (s.endReception).roster = s.roster := rfl
@[simp] theorem State.endReception_presenceTimer (s : State) : (s.endReception).presenceTimer = s.presenceTimer := rfl
@[simp] theorem State.endReception_offers (s : State) : (s.endReception).offers = s.offers := rfl
@[simp] theorem State.endReception_line (s : State) : (s.endReception).line = s.line := rfl
@[simp] theorem State.endReception_streak (s : State) : (s.endReception).streak = s.streak := rfl
@[simp] theorem State.endReception_listenTimer (s : State) : (s.endReception).listenTimer = s.listenTimer := rfl
@[simp] theorem State.endReception_freeDraws (s : State) : (s.endReception).freeDraws = s.freeDraws := rfl
@[simp] theorem State.endReception_pending (s : State) : (s.endReception).pending = s.pending := rfl
@[simp] theorem State.endReception_wires (s : State) : (s.endReception).wires = s.wires := rfl

/-! ### `State.heard` -/

@[simp] theorem State.heard_config (s : State) : (s.heard).config = s.config := rfl
@[simp] theorem State.heard_startCause (s : State) : (s.heard).startCause = s.startCause := rfl
@[simp] theorem State.heard_firstReset (s : State) : (s.heard).firstReset = s.firstReset := rfl
@[simp] theorem State.heard_supplyHold (s : State) : (s.heard).supplyHold = s.supplyHold := rfl
@[simp] theorem State.heard_pinHold (s : State) : (s.heard).pinHold = s.pinHold := rfl
@[simp] theorem State.heard_scsLow (s : State) : (s.heard).scsLow = s.scsLow := rfl
@[simp] theorem State.heard_txn (s : State) : (s.heard).txn = s.txn := rfl
@[simp] theorem State.heard_spi (s : State) : (s.heard).spi = s.spi := rfl
@[simp] theorem State.heard_notices (s : State) : (s.heard).notices = s.notices := rfl
@[simp] theorem State.heard_freeSlots (s : State) : (s.heard).freeSlots = s.freeSlots := rfl
@[simp] theorem State.heard_streams (s : State) : (s.heard).streams = s.streams := rfl
@[simp] theorem State.heard_frameOffset (s : State) : (s.heard).frameOffset = s.frameOffset := rfl
@[simp] theorem State.heard_frameInProgress (s : State) : (s.heard).frameInProgress = s.frameInProgress := rfl
@[simp] theorem State.heard_frameBits (s : State) : (s.heard).frameBits = s.frameBits := rfl
@[simp] theorem State.heard_fsyncHigh (s : State) : (s.heard).fsyncHigh = s.fsyncHigh := rfl
@[simp] theorem State.heard_subs (s : State) : (s.heard).subs = s.subs := rfl
@[simp] theorem State.heard_markNo (s : State) : (s.heard).markNo = s.markNo := rfl
@[simp] theorem State.heard_markPending (s : State) : (s.heard).markPending = s.markPending := rfl
@[simp] theorem State.heard_lastMark (s : State) : (s.heard).lastMark = s.lastMark := rfl
@[simp] theorem State.heard_intervalTimer (s : State) : (s.heard).intervalTimer = s.intervalTimer := rfl
@[simp] theorem State.heard_roster (s : State) : (s.heard).roster = s.roster := rfl
@[simp] theorem State.heard_presenceTimer (s : State) : (s.heard).presenceTimer = s.presenceTimer := rfl
@[simp] theorem State.heard_offers (s : State) : (s.heard).offers = s.offers := rfl
@[simp] theorem State.heard_line (s : State) : (s.heard).line = s.line := rfl
@[simp] theorem State.heard_streak (s : State) : (s.heard).streak = s.streak := rfl
@[simp] theorem State.heard_listenTimer (s : State) : (s.heard).listenTimer = s.listenTimer := rfl
@[simp] theorem State.heard_freeDraws (s : State) : (s.heard).freeDraws = s.freeDraws := rfl
@[simp] theorem State.heard_pending (s : State) : (s.heard).pending = s.pending := rfl
@[simp] theorem State.heard_wires (s : State) : (s.heard).wires = s.wires := rfl

/-! ### `State.fallBack` -/

@[simp] theorem State.fallBack_config (s : State) : (s.fallBack).config = s.config := rfl
@[simp] theorem State.fallBack_startCause (s : State) : (s.fallBack).startCause = s.startCause := rfl
@[simp] theorem State.fallBack_firstReset (s : State) : (s.fallBack).firstReset = s.firstReset := rfl
@[simp] theorem State.fallBack_supplyHold (s : State) : (s.fallBack).supplyHold = s.supplyHold := rfl
@[simp] theorem State.fallBack_pinHold (s : State) : (s.fallBack).pinHold = s.pinHold := rfl
@[simp] theorem State.fallBack_scsLow (s : State) : (s.fallBack).scsLow = s.scsLow := rfl
@[simp] theorem State.fallBack_txn (s : State) : (s.fallBack).txn = s.txn := rfl
@[simp] theorem State.fallBack_spi (s : State) : (s.fallBack).spi = s.spi := rfl
@[simp] theorem State.fallBack_notices (s : State) : (s.fallBack).notices = s.notices := rfl
@[simp] theorem State.fallBack_freeSlots (s : State) : (s.fallBack).freeSlots = s.freeSlots := rfl
@[simp] theorem State.fallBack_streams (s : State) : (s.fallBack).streams = s.streams := rfl
@[simp] theorem State.fallBack_frameOffset (s : State) : (s.fallBack).frameOffset = s.frameOffset := rfl
@[simp] theorem State.fallBack_frameInProgress (s : State) : (s.fallBack).frameInProgress = s.frameInProgress := rfl
@[simp] theorem State.fallBack_frameBits (s : State) : (s.fallBack).frameBits = s.frameBits := rfl
@[simp] theorem State.fallBack_fsyncHigh (s : State) : (s.fallBack).fsyncHigh = s.fsyncHigh := rfl
@[simp] theorem State.fallBack_subs (s : State) : (s.fallBack).subs = s.subs := rfl
@[simp] theorem State.fallBack_markNo (s : State) : (s.fallBack).markNo = s.markNo := rfl
@[simp] theorem State.fallBack_markPending (s : State) : (s.fallBack).markPending = s.markPending := rfl
@[simp] theorem State.fallBack_lastMark (s : State) : (s.fallBack).lastMark = s.lastMark := rfl
@[simp] theorem State.fallBack_intervalTimer (s : State) : (s.fallBack).intervalTimer = s.intervalTimer := rfl
@[simp] theorem State.fallBack_roster (s : State) : (s.fallBack).roster = s.roster := rfl
@[simp] theorem State.fallBack_presenceTimer (s : State) : (s.fallBack).presenceTimer = s.presenceTimer := rfl
@[simp] theorem State.fallBack_offers (s : State) : (s.fallBack).offers = s.offers := rfl
@[simp] theorem State.fallBack_line (s : State) : (s.fallBack).line = s.line := rfl
@[simp] theorem State.fallBack_streak (s : State) : (s.fallBack).streak = s.streak := rfl
@[simp] theorem State.fallBack_listenTimer (s : State) : (s.fallBack).listenTimer = s.listenTimer := rfl
@[simp] theorem State.fallBack_bits (s : State) : (s.fallBack).bits = s.bits := rfl
@[simp] theorem State.fallBack_freeDraws (s : State) : (s.fallBack).freeDraws = s.freeDraws := rfl
@[simp] theorem State.fallBack_pending (s : State) : (s.fallBack).pending = s.pending := rfl
@[simp] theorem State.fallBack_wires (s : State) : (s.fallBack).wires = s.wires := rfl

/-! ### `State.removeFlying` -/

@[simp] theorem State.removeFlying_config (s : State) : (s.removeFlying).config = s.config := rfl
@[simp] theorem State.removeFlying_startCause (s : State) : (s.removeFlying).startCause = s.startCause := rfl
@[simp] theorem State.removeFlying_firstReset (s : State) : (s.removeFlying).firstReset = s.firstReset := rfl
@[simp] theorem State.removeFlying_supplyHold (s : State) : (s.removeFlying).supplyHold = s.supplyHold := rfl
@[simp] theorem State.removeFlying_pinHold (s : State) : (s.removeFlying).pinHold = s.pinHold := rfl
@[simp] theorem State.removeFlying_scsLow (s : State) : (s.removeFlying).scsLow = s.scsLow := rfl
@[simp] theorem State.removeFlying_txn (s : State) : (s.removeFlying).txn = s.txn := rfl
@[simp] theorem State.removeFlying_spi (s : State) : (s.removeFlying).spi = s.spi := rfl
@[simp] theorem State.removeFlying_notices (s : State) : (s.removeFlying).notices = s.notices := rfl
@[simp] theorem State.removeFlying_freeSlots (s : State) : (s.removeFlying).freeSlots = s.freeSlots := rfl
@[simp] theorem State.removeFlying_streams (s : State) : (s.removeFlying).streams = s.streams := rfl
@[simp] theorem State.removeFlying_frameOffset (s : State) : (s.removeFlying).frameOffset = s.frameOffset := rfl
@[simp] theorem State.removeFlying_frameInProgress (s : State) :
    (s.removeFlying).frameInProgress = s.frameInProgress := rfl
@[simp] theorem State.removeFlying_frameBits (s : State) : (s.removeFlying).frameBits = s.frameBits := rfl
@[simp] theorem State.removeFlying_fsyncHigh (s : State) : (s.removeFlying).fsyncHigh = s.fsyncHigh := rfl
@[simp] theorem State.removeFlying_subs (s : State) : (s.removeFlying).subs = s.subs := rfl
@[simp] theorem State.removeFlying_markNo (s : State) : (s.removeFlying).markNo = s.markNo := rfl
@[simp] theorem State.removeFlying_markPending (s : State) : (s.removeFlying).markPending = s.markPending := rfl
@[simp] theorem State.removeFlying_lastMark (s : State) : (s.removeFlying).lastMark = s.lastMark := rfl
@[simp] theorem State.removeFlying_intervalTimer (s : State) : (s.removeFlying).intervalTimer = s.intervalTimer := rfl
@[simp] theorem State.removeFlying_roster (s : State) : (s.removeFlying).roster = s.roster := rfl
@[simp] theorem State.removeFlying_presenceTimer (s : State) : (s.removeFlying).presenceTimer = s.presenceTimer := rfl
@[simp] theorem State.removeFlying_line (s : State) : (s.removeFlying).line = s.line := rfl
@[simp] theorem State.removeFlying_streak (s : State) : (s.removeFlying).streak = s.streak := rfl
@[simp] theorem State.removeFlying_listenTimer (s : State) : (s.removeFlying).listenTimer = s.listenTimer := rfl
@[simp] theorem State.removeFlying_lineIdle (s : State) : (s.removeFlying).lineIdle = s.lineIdle := rfl
@[simp] theorem State.removeFlying_assembling (s : State) : (s.removeFlying).assembling = s.assembling := rfl
@[simp] theorem State.removeFlying_bits (s : State) : (s.removeFlying).bits = s.bits := rfl
@[simp] theorem State.removeFlying_freeDraws (s : State) : (s.removeFlying).freeDraws = s.freeDraws := rfl
@[simp] theorem State.removeFlying_pending (s : State) : (s.removeFlying).pending = s.pending := rfl
@[simp] theorem State.removeFlying_wires (s : State) : (s.removeFlying).wires = s.wires := rfl

/-! ### `State.landFlying` -/

@[simp] theorem State.landFlying_config (s : State) (k : Nat) : (s.landFlying k).config = s.config := rfl
@[simp] theorem State.landFlying_startCause (s : State) (k : Nat) : (s.landFlying k).startCause = s.startCause := rfl
@[simp] theorem State.landFlying_firstReset (s : State) (k : Nat) : (s.landFlying k).firstReset = s.firstReset := rfl
@[simp] theorem State.landFlying_supplyHold (s : State) (k : Nat) : (s.landFlying k).supplyHold = s.supplyHold := rfl
@[simp] theorem State.landFlying_pinHold (s : State) (k : Nat) : (s.landFlying k).pinHold = s.pinHold := rfl
@[simp] theorem State.landFlying_scsLow (s : State) (k : Nat) : (s.landFlying k).scsLow = s.scsLow := rfl
@[simp] theorem State.landFlying_txn (s : State) (k : Nat) : (s.landFlying k).txn = s.txn := rfl
@[simp] theorem State.landFlying_spi (s : State) (k : Nat) : (s.landFlying k).spi = s.spi := rfl
@[simp] theorem State.landFlying_notices (s : State) (k : Nat) : (s.landFlying k).notices = s.notices := rfl
@[simp] theorem State.landFlying_freeSlots (s : State) (k : Nat) : (s.landFlying k).freeSlots = s.freeSlots := rfl
@[simp] theorem State.landFlying_streams (s : State) (k : Nat) : (s.landFlying k).streams = s.streams := rfl
@[simp] theorem State.landFlying_frameOffset (s : State) (k : Nat) : (s.landFlying k).frameOffset = s.frameOffset := rfl
@[simp] theorem State.landFlying_frameInProgress (s : State) (k : Nat) :
    (s.landFlying k).frameInProgress = s.frameInProgress := rfl
@[simp] theorem State.landFlying_frameBits (s : State) (k : Nat) : (s.landFlying k).frameBits = s.frameBits := rfl
@[simp] theorem State.landFlying_fsyncHigh (s : State) (k : Nat) : (s.landFlying k).fsyncHigh = s.fsyncHigh := rfl
@[simp] theorem State.landFlying_subs (s : State) (k : Nat) : (s.landFlying k).subs = s.subs := rfl
@[simp] theorem State.landFlying_markNo (s : State) (k : Nat) : (s.landFlying k).markNo = s.markNo := rfl
@[simp] theorem State.landFlying_markPending (s : State) (k : Nat) : (s.landFlying k).markPending = s.markPending := rfl
@[simp] theorem State.landFlying_lastMark (s : State) (k : Nat) : (s.landFlying k).lastMark = s.lastMark := rfl
@[simp] theorem State.landFlying_intervalTimer (s : State) (k : Nat) :
    (s.landFlying k).intervalTimer = s.intervalTimer := rfl
@[simp] theorem State.landFlying_roster (s : State) (k : Nat) : (s.landFlying k).roster = s.roster := rfl
@[simp] theorem State.landFlying_presenceTimer (s : State) (k : Nat) :
    (s.landFlying k).presenceTimer = s.presenceTimer := rfl
@[simp] theorem State.landFlying_line (s : State) (k : Nat) : (s.landFlying k).line = s.line := rfl
@[simp] theorem State.landFlying_streak (s : State) (k : Nat) : (s.landFlying k).streak = s.streak := rfl
@[simp] theorem State.landFlying_listenTimer (s : State) (k : Nat) : (s.landFlying k).listenTimer = s.listenTimer := rfl
@[simp] theorem State.landFlying_lineIdle (s : State) (k : Nat) : (s.landFlying k).lineIdle = s.lineIdle := rfl
@[simp] theorem State.landFlying_assembling (s : State) (k : Nat) : (s.landFlying k).assembling = s.assembling := rfl
@[simp] theorem State.landFlying_bits (s : State) (k : Nat) : (s.landFlying k).bits = s.bits := rfl
@[simp] theorem State.landFlying_freeDraws (s : State) (k : Nat) : (s.landFlying k).freeDraws = s.freeDraws := rfl
@[simp] theorem State.landFlying_pending (s : State) (k : Nat) : (s.landFlying k).pending = s.pending := rfl
@[simp] theorem State.landFlying_wires (s : State) (k : Nat) : (s.landFlying k).wires = s.wires := rfl

/-! ### `State.setPeer` -/

@[simp] theorem State.setPeer_config (s : State) (a : Addr) (e : PeerEntry) : (s.setPeer a e).config = s.config := by
  unfold State.setPeer; split <;> rfl
@[simp] theorem State.setPeer_startCause (s : State) (a : Addr) (e : PeerEntry) :
    (s.setPeer a e).startCause = s.startCause := by
  unfold State.setPeer; split <;> rfl
@[simp] theorem State.setPeer_firstReset (s : State) (a : Addr) (e : PeerEntry) :
    (s.setPeer a e).firstReset = s.firstReset := by
  unfold State.setPeer; split <;> rfl
@[simp] theorem State.setPeer_supplyHold (s : State) (a : Addr) (e : PeerEntry) :
    (s.setPeer a e).supplyHold = s.supplyHold := by
  unfold State.setPeer; split <;> rfl
@[simp] theorem State.setPeer_pinHold (s : State) (a : Addr) (e : PeerEntry) : (s.setPeer a e).pinHold = s.pinHold := by
  unfold State.setPeer; split <;> rfl
@[simp] theorem State.setPeer_scsLow (s : State) (a : Addr) (e : PeerEntry) : (s.setPeer a e).scsLow = s.scsLow := by
  unfold State.setPeer; split <;> rfl
@[simp] theorem State.setPeer_txn (s : State) (a : Addr) (e : PeerEntry) : (s.setPeer a e).txn = s.txn := by
  unfold State.setPeer; split <;> rfl
@[simp] theorem State.setPeer_spi (s : State) (a : Addr) (e : PeerEntry) : (s.setPeer a e).spi = s.spi := by
  unfold State.setPeer; split <;> rfl
@[simp] theorem State.setPeer_notices (s : State) (a : Addr) (e : PeerEntry) : (s.setPeer a e).notices = s.notices := by
  unfold State.setPeer; split <;> rfl
@[simp] theorem State.setPeer_freeSlots (s : State) (a : Addr) (e : PeerEntry) :
    (s.setPeer a e).freeSlots = s.freeSlots := by
  unfold State.setPeer; split <;> rfl
@[simp] theorem State.setPeer_streams (s : State) (a : Addr) (e : PeerEntry) : (s.setPeer a e).streams = s.streams := by
  unfold State.setPeer; split <;> rfl
@[simp] theorem State.setPeer_frameOffset (s : State) (a : Addr) (e : PeerEntry) :
    (s.setPeer a e).frameOffset = s.frameOffset := by
  unfold State.setPeer; split <;> rfl
@[simp] theorem State.setPeer_frameInProgress (s : State) (a : Addr) (e : PeerEntry) :
    (s.setPeer a e).frameInProgress = s.frameInProgress := by
  unfold State.setPeer; split <;> rfl
@[simp] theorem State.setPeer_frameBits (s : State) (a : Addr) (e : PeerEntry) :
    (s.setPeer a e).frameBits = s.frameBits := by
  unfold State.setPeer; split <;> rfl
@[simp] theorem State.setPeer_fsyncHigh (s : State) (a : Addr) (e : PeerEntry) :
    (s.setPeer a e).fsyncHigh = s.fsyncHigh := by
  unfold State.setPeer; split <;> rfl
@[simp] theorem State.setPeer_subs (s : State) (a : Addr) (e : PeerEntry) : (s.setPeer a e).subs = s.subs := by
  unfold State.setPeer; split <;> rfl
@[simp] theorem State.setPeer_markNo (s : State) (a : Addr) (e : PeerEntry) : (s.setPeer a e).markNo = s.markNo := by
  unfold State.setPeer; split <;> rfl
@[simp] theorem State.setPeer_markPending (s : State) (a : Addr) (e : PeerEntry) :
    (s.setPeer a e).markPending = s.markPending := by
  unfold State.setPeer; split <;> rfl
@[simp] theorem State.setPeer_lastMark (s : State) (a : Addr) (e : PeerEntry) :
    (s.setPeer a e).lastMark = s.lastMark := by
  unfold State.setPeer; split <;> rfl
@[simp] theorem State.setPeer_intervalTimer (s : State) (a : Addr) (e : PeerEntry) :
    (s.setPeer a e).intervalTimer = s.intervalTimer := by
  unfold State.setPeer; split <;> rfl
@[simp] theorem State.setPeer_presenceTimer (s : State) (a : Addr) (e : PeerEntry) :
    (s.setPeer a e).presenceTimer = s.presenceTimer := by
  unfold State.setPeer; split <;> rfl
@[simp] theorem State.setPeer_offers (s : State) (a : Addr) (e : PeerEntry) : (s.setPeer a e).offers = s.offers := by
  unfold State.setPeer; split <;> rfl
@[simp] theorem State.setPeer_line (s : State) (a : Addr) (e : PeerEntry) : (s.setPeer a e).line = s.line := by
  unfold State.setPeer; split <;> rfl
@[simp] theorem State.setPeer_streak (s : State) (a : Addr) (e : PeerEntry) : (s.setPeer a e).streak = s.streak := by
  unfold State.setPeer; split <;> rfl
@[simp] theorem State.setPeer_listenTimer (s : State) (a : Addr) (e : PeerEntry) :
    (s.setPeer a e).listenTimer = s.listenTimer := by
  unfold State.setPeer; split <;> rfl
@[simp] theorem State.setPeer_lineIdle (s : State) (a : Addr) (e : PeerEntry) :
    (s.setPeer a e).lineIdle = s.lineIdle := by
  unfold State.setPeer; split <;> rfl
@[simp] theorem State.setPeer_assembling (s : State) (a : Addr) (e : PeerEntry) :
    (s.setPeer a e).assembling = s.assembling := by
  unfold State.setPeer; split <;> rfl
@[simp] theorem State.setPeer_bits (s : State) (a : Addr) (e : PeerEntry) : (s.setPeer a e).bits = s.bits := by
  unfold State.setPeer; split <;> rfl
@[simp] theorem State.setPeer_freeDraws (s : State) (a : Addr) (e : PeerEntry) :
    (s.setPeer a e).freeDraws = s.freeDraws := by
  unfold State.setPeer; split <;> rfl
@[simp] theorem State.setPeer_pending (s : State) (a : Addr) (e : PeerEntry) : (s.setPeer a e).pending = s.pending := by
  unfold State.setPeer; split <;> rfl
@[simp] theorem State.setPeer_wires (s : State) (a : Addr) (e : PeerEntry) : (s.setPeer a e).wires = s.wires := by
  unfold State.setPeer; split <;> rfl

/-! ### `State.modPub` -/

@[simp] theorem State.modPub_config (s : State) (n : StreamNo) (f : Pub → Pub) : (s.modPub n f).config = s.config := by
  unfold State.modPub; split <;> rfl
@[simp] theorem State.modPub_startCause (s : State) (n : StreamNo) (f : Pub → Pub) :
    (s.modPub n f).startCause = s.startCause := by
  unfold State.modPub; split <;> rfl
@[simp] theorem State.modPub_firstReset (s : State) (n : StreamNo) (f : Pub → Pub) :
    (s.modPub n f).firstReset = s.firstReset := by
  unfold State.modPub; split <;> rfl
@[simp] theorem State.modPub_supplyHold (s : State) (n : StreamNo) (f : Pub → Pub) :
    (s.modPub n f).supplyHold = s.supplyHold := by
  unfold State.modPub; split <;> rfl
@[simp] theorem State.modPub_pinHold (s : State) (n : StreamNo) (f : Pub → Pub) :
    (s.modPub n f).pinHold = s.pinHold := by
  unfold State.modPub; split <;> rfl
@[simp] theorem State.modPub_scsLow (s : State) (n : StreamNo) (f : Pub → Pub) : (s.modPub n f).scsLow = s.scsLow := by
  unfold State.modPub; split <;> rfl
@[simp] theorem State.modPub_txn (s : State) (n : StreamNo) (f : Pub → Pub) : (s.modPub n f).txn = s.txn := by
  unfold State.modPub; split <;> rfl
@[simp] theorem State.modPub_spi (s : State) (n : StreamNo) (f : Pub → Pub) : (s.modPub n f).spi = s.spi := by
  unfold State.modPub; split <;> rfl
@[simp] theorem State.modPub_notices (s : State) (n : StreamNo) (f : Pub → Pub) :
    (s.modPub n f).notices = s.notices := by
  unfold State.modPub; split <;> rfl
@[simp] theorem State.modPub_freeSlots (s : State) (n : StreamNo) (f : Pub → Pub) :
    (s.modPub n f).freeSlots = s.freeSlots := by
  unfold State.modPub; split <;> rfl
@[simp] theorem State.modPub_frameOffset (s : State) (n : StreamNo) (f : Pub → Pub) :
    (s.modPub n f).frameOffset = s.frameOffset := by
  unfold State.modPub; split <;> rfl
@[simp] theorem State.modPub_frameInProgress (s : State) (n : StreamNo) (f : Pub → Pub) :
    (s.modPub n f).frameInProgress = s.frameInProgress := by
  unfold State.modPub; split <;> rfl
@[simp] theorem State.modPub_frameBits (s : State) (n : StreamNo) (f : Pub → Pub) :
    (s.modPub n f).frameBits = s.frameBits := by
  unfold State.modPub; split <;> rfl
@[simp] theorem State.modPub_fsyncHigh (s : State) (n : StreamNo) (f : Pub → Pub) :
    (s.modPub n f).fsyncHigh = s.fsyncHigh := by
  unfold State.modPub; split <;> rfl
@[simp] theorem State.modPub_subs (s : State) (n : StreamNo) (f : Pub → Pub) : (s.modPub n f).subs = s.subs := by
  unfold State.modPub; split <;> rfl
@[simp] theorem State.modPub_markNo (s : State) (n : StreamNo) (f : Pub → Pub) : (s.modPub n f).markNo = s.markNo := by
  unfold State.modPub; split <;> rfl
@[simp] theorem State.modPub_markPending (s : State) (n : StreamNo) (f : Pub → Pub) :
    (s.modPub n f).markPending = s.markPending := by
  unfold State.modPub; split <;> rfl
@[simp] theorem State.modPub_lastMark (s : State) (n : StreamNo) (f : Pub → Pub) :
    (s.modPub n f).lastMark = s.lastMark := by
  unfold State.modPub; split <;> rfl
@[simp] theorem State.modPub_intervalTimer (s : State) (n : StreamNo) (f : Pub → Pub) :
    (s.modPub n f).intervalTimer = s.intervalTimer := by
  unfold State.modPub; split <;> rfl
@[simp] theorem State.modPub_roster (s : State) (n : StreamNo) (f : Pub → Pub) : (s.modPub n f).roster = s.roster := by
  unfold State.modPub; split <;> rfl
@[simp] theorem State.modPub_presenceTimer (s : State) (n : StreamNo) (f : Pub → Pub) :
    (s.modPub n f).presenceTimer = s.presenceTimer := by
  unfold State.modPub; split <;> rfl
@[simp] theorem State.modPub_offers (s : State) (n : StreamNo) (f : Pub → Pub) : (s.modPub n f).offers = s.offers := by
  unfold State.modPub; split <;> rfl
@[simp] theorem State.modPub_line (s : State) (n : StreamNo) (f : Pub → Pub) : (s.modPub n f).line = s.line := by
  unfold State.modPub; split <;> rfl
@[simp] theorem State.modPub_streak (s : State) (n : StreamNo) (f : Pub → Pub) : (s.modPub n f).streak = s.streak := by
  unfold State.modPub; split <;> rfl
@[simp] theorem State.modPub_listenTimer (s : State) (n : StreamNo) (f : Pub → Pub) :
    (s.modPub n f).listenTimer = s.listenTimer := by
  unfold State.modPub; split <;> rfl
@[simp] theorem State.modPub_lineIdle (s : State) (n : StreamNo) (f : Pub → Pub) :
    (s.modPub n f).lineIdle = s.lineIdle := by
  unfold State.modPub; split <;> rfl
@[simp] theorem State.modPub_assembling (s : State) (n : StreamNo) (f : Pub → Pub) :
    (s.modPub n f).assembling = s.assembling := by
  unfold State.modPub; split <;> rfl
@[simp] theorem State.modPub_bits (s : State) (n : StreamNo) (f : Pub → Pub) : (s.modPub n f).bits = s.bits := by
  unfold State.modPub; split <;> rfl
@[simp] theorem State.modPub_freeDraws (s : State) (n : StreamNo) (f : Pub → Pub) :
    (s.modPub n f).freeDraws = s.freeDraws := by
  unfold State.modPub; split <;> rfl
@[simp] theorem State.modPub_pending (s : State) (n : StreamNo) (f : Pub → Pub) :
    (s.modPub n f).pending = s.pending := by
  unfold State.modPub; split <;> rfl
@[simp] theorem State.modPub_wires (s : State) (n : StreamNo) (f : Pub → Pub) : (s.modPub n f).wires = s.wires := by
  unfold State.modPub; split <;> rfl

/-! ### `State.modSub` -/

@[simp] theorem State.modSub_config (s : State) (h : SubHandle) (f : Sub → Sub) : (s.modSub h f).config = s.config := by
  unfold State.modSub; split <;> rfl
@[simp] theorem State.modSub_startCause (s : State) (h : SubHandle) (f : Sub → Sub) :
    (s.modSub h f).startCause = s.startCause := by
  unfold State.modSub; split <;> rfl
@[simp] theorem State.modSub_firstReset (s : State) (h : SubHandle) (f : Sub → Sub) :
    (s.modSub h f).firstReset = s.firstReset := by
  unfold State.modSub; split <;> rfl
@[simp] theorem State.modSub_supplyHold (s : State) (h : SubHandle) (f : Sub → Sub) :
    (s.modSub h f).supplyHold = s.supplyHold := by
  unfold State.modSub; split <;> rfl
@[simp] theorem State.modSub_pinHold (s : State) (h : SubHandle) (f : Sub → Sub) :
    (s.modSub h f).pinHold = s.pinHold := by
  unfold State.modSub; split <;> rfl
@[simp] theorem State.modSub_scsLow (s : State) (h : SubHandle) (f : Sub → Sub) : (s.modSub h f).scsLow = s.scsLow := by
  unfold State.modSub; split <;> rfl
@[simp] theorem State.modSub_txn (s : State) (h : SubHandle) (f : Sub → Sub) : (s.modSub h f).txn = s.txn := by
  unfold State.modSub; split <;> rfl
@[simp] theorem State.modSub_spi (s : State) (h : SubHandle) (f : Sub → Sub) : (s.modSub h f).spi = s.spi := by
  unfold State.modSub; split <;> rfl
@[simp] theorem State.modSub_notices (s : State) (h : SubHandle) (f : Sub → Sub) :
    (s.modSub h f).notices = s.notices := by
  unfold State.modSub; split <;> rfl
@[simp] theorem State.modSub_freeSlots (s : State) (h : SubHandle) (f : Sub → Sub) :
    (s.modSub h f).freeSlots = s.freeSlots := by
  unfold State.modSub; split <;> rfl
@[simp] theorem State.modSub_streams (s : State) (h : SubHandle) (f : Sub → Sub) :
    (s.modSub h f).streams = s.streams := by
  unfold State.modSub; split <;> rfl
@[simp] theorem State.modSub_frameOffset (s : State) (h : SubHandle) (f : Sub → Sub) :
    (s.modSub h f).frameOffset = s.frameOffset := by
  unfold State.modSub; split <;> rfl
@[simp] theorem State.modSub_frameInProgress (s : State) (h : SubHandle) (f : Sub → Sub) :
    (s.modSub h f).frameInProgress = s.frameInProgress := by
  unfold State.modSub; split <;> rfl
@[simp] theorem State.modSub_frameBits (s : State) (h : SubHandle) (f : Sub → Sub) :
    (s.modSub h f).frameBits = s.frameBits := by
  unfold State.modSub; split <;> rfl
@[simp] theorem State.modSub_fsyncHigh (s : State) (h : SubHandle) (f : Sub → Sub) :
    (s.modSub h f).fsyncHigh = s.fsyncHigh := by
  unfold State.modSub; split <;> rfl
@[simp] theorem State.modSub_markNo (s : State) (h : SubHandle) (f : Sub → Sub) : (s.modSub h f).markNo = s.markNo := by
  unfold State.modSub; split <;> rfl
@[simp] theorem State.modSub_markPending (s : State) (h : SubHandle) (f : Sub → Sub) :
    (s.modSub h f).markPending = s.markPending := by
  unfold State.modSub; split <;> rfl
@[simp] theorem State.modSub_lastMark (s : State) (h : SubHandle) (f : Sub → Sub) :
    (s.modSub h f).lastMark = s.lastMark := by
  unfold State.modSub; split <;> rfl
@[simp] theorem State.modSub_intervalTimer (s : State) (h : SubHandle) (f : Sub → Sub) :
    (s.modSub h f).intervalTimer = s.intervalTimer := by
  unfold State.modSub; split <;> rfl
@[simp] theorem State.modSub_roster (s : State) (h : SubHandle) (f : Sub → Sub) : (s.modSub h f).roster = s.roster := by
  unfold State.modSub; split <;> rfl
@[simp] theorem State.modSub_presenceTimer (s : State) (h : SubHandle) (f : Sub → Sub) :
    (s.modSub h f).presenceTimer = s.presenceTimer := by
  unfold State.modSub; split <;> rfl
@[simp] theorem State.modSub_offers (s : State) (h : SubHandle) (f : Sub → Sub) : (s.modSub h f).offers = s.offers := by
  unfold State.modSub; split <;> rfl
@[simp] theorem State.modSub_line (s : State) (h : SubHandle) (f : Sub → Sub) : (s.modSub h f).line = s.line := by
  unfold State.modSub; split <;> rfl
@[simp] theorem State.modSub_streak (s : State) (h : SubHandle) (f : Sub → Sub) : (s.modSub h f).streak = s.streak := by
  unfold State.modSub; split <;> rfl
@[simp] theorem State.modSub_listenTimer (s : State) (h : SubHandle) (f : Sub → Sub) :
    (s.modSub h f).listenTimer = s.listenTimer := by
  unfold State.modSub; split <;> rfl
@[simp] theorem State.modSub_lineIdle (s : State) (h : SubHandle) (f : Sub → Sub) :
    (s.modSub h f).lineIdle = s.lineIdle := by
  unfold State.modSub; split <;> rfl
@[simp] theorem State.modSub_assembling (s : State) (h : SubHandle) (f : Sub → Sub) :
    (s.modSub h f).assembling = s.assembling := by
  unfold State.modSub; split <;> rfl
@[simp] theorem State.modSub_bits (s : State) (h : SubHandle) (f : Sub → Sub) : (s.modSub h f).bits = s.bits := by
  unfold State.modSub; split <;> rfl
@[simp] theorem State.modSub_freeDraws (s : State) (h : SubHandle) (f : Sub → Sub) :
    (s.modSub h f).freeDraws = s.freeDraws := by
  unfold State.modSub; split <;> rfl
@[simp] theorem State.modSub_pending (s : State) (h : SubHandle) (f : Sub → Sub) :
    (s.modSub h f).pending = s.pending := by
  unfold State.modSub; split <;> rfl
@[simp] theorem State.modSub_wires (s : State) (h : SubHandle) (f : Sub → Sub) : (s.modSub h f).wires = s.wires := by
  unfold State.modSub; split <;> rfl

/-! ### `State.becomesIdle` -/

@[simp] theorem State.becomesIdle_config (s : State) : (s.becomesIdle).config = s.config := by
  unfold State.becomesIdle; split <;> rfl
@[simp] theorem State.becomesIdle_startCause (s : State) : (s.becomesIdle).startCause = s.startCause := by
  unfold State.becomesIdle; split <;> rfl
@[simp] theorem State.becomesIdle_firstReset (s : State) : (s.becomesIdle).firstReset = s.firstReset := by
  unfold State.becomesIdle; split <;> rfl
@[simp] theorem State.becomesIdle_supplyHold (s : State) : (s.becomesIdle).supplyHold = s.supplyHold := by
  unfold State.becomesIdle; split <;> rfl
@[simp] theorem State.becomesIdle_pinHold (s : State) : (s.becomesIdle).pinHold = s.pinHold := by
  unfold State.becomesIdle; split <;> rfl
@[simp] theorem State.becomesIdle_scsLow (s : State) : (s.becomesIdle).scsLow = s.scsLow := by
  unfold State.becomesIdle; split <;> rfl
@[simp] theorem State.becomesIdle_txn (s : State) : (s.becomesIdle).txn = s.txn := by
  unfold State.becomesIdle; split <;> rfl
@[simp] theorem State.becomesIdle_spi (s : State) : (s.becomesIdle).spi = s.spi := by
  unfold State.becomesIdle; split <;> rfl
@[simp] theorem State.becomesIdle_notices (s : State) : (s.becomesIdle).notices = s.notices := by
  unfold State.becomesIdle; split <;> rfl
@[simp] theorem State.becomesIdle_freeSlots (s : State) : (s.becomesIdle).freeSlots = s.freeSlots := by
  unfold State.becomesIdle; split <;> rfl
@[simp] theorem State.becomesIdle_streams (s : State) : (s.becomesIdle).streams = s.streams := by
  unfold State.becomesIdle; split <;> rfl
@[simp] theorem State.becomesIdle_frameOffset (s : State) : (s.becomesIdle).frameOffset = s.frameOffset := by
  unfold State.becomesIdle; split <;> rfl
@[simp] theorem State.becomesIdle_frameInProgress (s : State) :
    (s.becomesIdle).frameInProgress = s.frameInProgress := by
  unfold State.becomesIdle; split <;> rfl
@[simp] theorem State.becomesIdle_frameBits (s : State) : (s.becomesIdle).frameBits = s.frameBits := by
  unfold State.becomesIdle; split <;> rfl
@[simp] theorem State.becomesIdle_fsyncHigh (s : State) : (s.becomesIdle).fsyncHigh = s.fsyncHigh := by
  unfold State.becomesIdle; split <;> rfl
@[simp] theorem State.becomesIdle_subs (s : State) : (s.becomesIdle).subs = s.subs := by
  unfold State.becomesIdle; split <;> rfl
@[simp] theorem State.becomesIdle_markNo (s : State) : (s.becomesIdle).markNo = s.markNo := by
  unfold State.becomesIdle; split <;> rfl
@[simp] theorem State.becomesIdle_markPending (s : State) : (s.becomesIdle).markPending = s.markPending := by
  unfold State.becomesIdle; split <;> rfl
@[simp] theorem State.becomesIdle_lastMark (s : State) : (s.becomesIdle).lastMark = s.lastMark := by
  unfold State.becomesIdle; split <;> rfl
@[simp] theorem State.becomesIdle_intervalTimer (s : State) : (s.becomesIdle).intervalTimer = s.intervalTimer := by
  unfold State.becomesIdle; split <;> rfl
@[simp] theorem State.becomesIdle_roster (s : State) : (s.becomesIdle).roster = s.roster := by
  unfold State.becomesIdle; split <;> rfl
@[simp] theorem State.becomesIdle_presenceTimer (s : State) : (s.becomesIdle).presenceTimer = s.presenceTimer := by
  unfold State.becomesIdle; split <;> rfl
@[simp] theorem State.becomesIdle_offers (s : State) : (s.becomesIdle).offers = s.offers := by
  unfold State.becomesIdle; split <;> rfl
@[simp] theorem State.becomesIdle_line (s : State) : (s.becomesIdle).line = s.line := by
  unfold State.becomesIdle; split <;> rfl
@[simp] theorem State.becomesIdle_streak (s : State) : (s.becomesIdle).streak = s.streak := by
  unfold State.becomesIdle; split <;> rfl
@[simp] theorem State.becomesIdle_listenTimer (s : State) : (s.becomesIdle).listenTimer = s.listenTimer := by
  unfold State.becomesIdle; split <;> rfl
@[simp] theorem State.becomesIdle_freeDraws (s : State) : (s.becomesIdle).freeDraws = s.freeDraws := by
  unfold State.becomesIdle; split <;> rfl
@[simp] theorem State.becomesIdle_pending (s : State) : (s.becomesIdle).pending = s.pending := by
  unfold State.becomesIdle; split <;> rfl
@[simp] theorem State.becomesIdle_wires (s : State) : (s.becomesIdle).wires = s.wires := by
  unfold State.becomesIdle; split <;> rfl

/-! ### `State.receptionBreaks` -/

@[simp] theorem State.receptionBreaks_config (s : State) : (s.receptionBreaks).config = s.config := by
  unfold State.receptionBreaks; split <;> rfl
@[simp] theorem State.receptionBreaks_startCause (s : State) : (s.receptionBreaks).startCause = s.startCause := by
  unfold State.receptionBreaks; split <;> rfl
@[simp] theorem State.receptionBreaks_firstReset (s : State) : (s.receptionBreaks).firstReset = s.firstReset := by
  unfold State.receptionBreaks; split <;> rfl
@[simp] theorem State.receptionBreaks_supplyHold (s : State) : (s.receptionBreaks).supplyHold = s.supplyHold := by
  unfold State.receptionBreaks; split <;> rfl
@[simp] theorem State.receptionBreaks_pinHold (s : State) : (s.receptionBreaks).pinHold = s.pinHold := by
  unfold State.receptionBreaks; split <;> rfl
@[simp] theorem State.receptionBreaks_scsLow (s : State) : (s.receptionBreaks).scsLow = s.scsLow := by
  unfold State.receptionBreaks; split <;> rfl
@[simp] theorem State.receptionBreaks_txn (s : State) : (s.receptionBreaks).txn = s.txn := by
  unfold State.receptionBreaks; split <;> rfl
@[simp] theorem State.receptionBreaks_spi (s : State) : (s.receptionBreaks).spi = s.spi := by
  unfold State.receptionBreaks; split <;> rfl
@[simp] theorem State.receptionBreaks_notices (s : State) : (s.receptionBreaks).notices = s.notices := by
  unfold State.receptionBreaks; split <;> rfl
@[simp] theorem State.receptionBreaks_freeSlots (s : State) : (s.receptionBreaks).freeSlots = s.freeSlots := by
  unfold State.receptionBreaks; split <;> rfl
@[simp] theorem State.receptionBreaks_streams (s : State) : (s.receptionBreaks).streams = s.streams := by
  unfold State.receptionBreaks; split <;> rfl
@[simp] theorem State.receptionBreaks_frameOffset (s : State) : (s.receptionBreaks).frameOffset = s.frameOffset := by
  unfold State.receptionBreaks; split <;> rfl
@[simp] theorem State.receptionBreaks_frameInProgress (s : State) :
    (s.receptionBreaks).frameInProgress = s.frameInProgress := by
  unfold State.receptionBreaks; split <;> rfl
@[simp] theorem State.receptionBreaks_frameBits (s : State) : (s.receptionBreaks).frameBits = s.frameBits := by
  unfold State.receptionBreaks; split <;> rfl
@[simp] theorem State.receptionBreaks_fsyncHigh (s : State) : (s.receptionBreaks).fsyncHigh = s.fsyncHigh := by
  unfold State.receptionBreaks; split <;> rfl
@[simp] theorem State.receptionBreaks_subs (s : State) : (s.receptionBreaks).subs = s.subs := by
  unfold State.receptionBreaks; split <;> rfl
@[simp] theorem State.receptionBreaks_markNo (s : State) : (s.receptionBreaks).markNo = s.markNo := by
  unfold State.receptionBreaks; split <;> rfl
@[simp] theorem State.receptionBreaks_markPending (s : State) : (s.receptionBreaks).markPending = s.markPending := by
  unfold State.receptionBreaks; split <;> rfl
@[simp] theorem State.receptionBreaks_lastMark (s : State) : (s.receptionBreaks).lastMark = s.lastMark := by
  unfold State.receptionBreaks; split <;> rfl
@[simp] theorem State.receptionBreaks_intervalTimer (s : State) :
    (s.receptionBreaks).intervalTimer = s.intervalTimer := by
  unfold State.receptionBreaks; split <;> rfl
@[simp] theorem State.receptionBreaks_roster (s : State) : (s.receptionBreaks).roster = s.roster := by
  unfold State.receptionBreaks; split <;> rfl
@[simp] theorem State.receptionBreaks_presenceTimer (s : State) :
    (s.receptionBreaks).presenceTimer = s.presenceTimer := by
  unfold State.receptionBreaks; split <;> rfl
@[simp] theorem State.receptionBreaks_offers (s : State) : (s.receptionBreaks).offers = s.offers := by
  unfold State.receptionBreaks; split <;> rfl
@[simp] theorem State.receptionBreaks_line (s : State) : (s.receptionBreaks).line = s.line := by
  unfold State.receptionBreaks; split <;> rfl
@[simp] theorem State.receptionBreaks_streak (s : State) : (s.receptionBreaks).streak = s.streak := by
  unfold State.receptionBreaks; split <;> rfl
@[simp] theorem State.receptionBreaks_listenTimer (s : State) : (s.receptionBreaks).listenTimer = s.listenTimer := by
  unfold State.receptionBreaks; split <;> rfl
@[simp] theorem State.receptionBreaks_freeDraws (s : State) : (s.receptionBreaks).freeDraws = s.freeDraws := by
  unfold State.receptionBreaks; split <;> rfl
@[simp] theorem State.receptionBreaks_pending (s : State) : (s.receptionBreaks).pending = s.pending := by
  unfold State.receptionBreaks; split <;> rfl
@[simp] theorem State.receptionBreaks_wires (s : State) : (s.receptionBreaks).wires = s.wires := by
  unfold State.receptionBreaks; split <;> rfl

/-! ### `State.sckFalls` -/

@[simp] theorem State.sckFalls_config (s : State) : (s.sckFalls).config = s.config := by
  unfold State.sckFalls; split <;> rfl
@[simp] theorem State.sckFalls_startCause (s : State) : (s.sckFalls).startCause = s.startCause := by
  unfold State.sckFalls; split <;> rfl
@[simp] theorem State.sckFalls_firstReset (s : State) : (s.sckFalls).firstReset = s.firstReset := by
  unfold State.sckFalls; split <;> rfl
@[simp] theorem State.sckFalls_supplyHold (s : State) : (s.sckFalls).supplyHold = s.supplyHold := by
  unfold State.sckFalls; split <;> rfl
@[simp] theorem State.sckFalls_pinHold (s : State) : (s.sckFalls).pinHold = s.pinHold := by
  unfold State.sckFalls; split <;> rfl
@[simp] theorem State.sckFalls_scsLow (s : State) : (s.sckFalls).scsLow = s.scsLow := by
  unfold State.sckFalls; split <;> rfl
@[simp] theorem State.sckFalls_txn (s : State) : (s.sckFalls).txn = s.txn := by
  unfold State.sckFalls; split <;> rfl
@[simp] theorem State.sckFalls_notices (s : State) : (s.sckFalls).notices = s.notices := by
  unfold State.sckFalls; split <;> rfl
@[simp] theorem State.sckFalls_freeSlots (s : State) : (s.sckFalls).freeSlots = s.freeSlots := by
  unfold State.sckFalls; split <;> rfl
@[simp] theorem State.sckFalls_streams (s : State) : (s.sckFalls).streams = s.streams := by
  unfold State.sckFalls; split <;> rfl
@[simp] theorem State.sckFalls_frameOffset (s : State) : (s.sckFalls).frameOffset = s.frameOffset := by
  unfold State.sckFalls; split <;> rfl
@[simp] theorem State.sckFalls_frameInProgress (s : State) : (s.sckFalls).frameInProgress = s.frameInProgress := by
  unfold State.sckFalls; split <;> rfl
@[simp] theorem State.sckFalls_frameBits (s : State) : (s.sckFalls).frameBits = s.frameBits := by
  unfold State.sckFalls; split <;> rfl
@[simp] theorem State.sckFalls_fsyncHigh (s : State) : (s.sckFalls).fsyncHigh = s.fsyncHigh := by
  unfold State.sckFalls; split <;> rfl
@[simp] theorem State.sckFalls_subs (s : State) : (s.sckFalls).subs = s.subs := by
  unfold State.sckFalls; split <;> rfl
@[simp] theorem State.sckFalls_markNo (s : State) : (s.sckFalls).markNo = s.markNo := by
  unfold State.sckFalls; split <;> rfl
@[simp] theorem State.sckFalls_markPending (s : State) : (s.sckFalls).markPending = s.markPending := by
  unfold State.sckFalls; split <;> rfl
@[simp] theorem State.sckFalls_lastMark (s : State) : (s.sckFalls).lastMark = s.lastMark := by
  unfold State.sckFalls; split <;> rfl
@[simp] theorem State.sckFalls_intervalTimer (s : State) : (s.sckFalls).intervalTimer = s.intervalTimer := by
  unfold State.sckFalls; split <;> rfl
@[simp] theorem State.sckFalls_roster (s : State) : (s.sckFalls).roster = s.roster := by
  unfold State.sckFalls; split <;> rfl
@[simp] theorem State.sckFalls_presenceTimer (s : State) : (s.sckFalls).presenceTimer = s.presenceTimer := by
  unfold State.sckFalls; split <;> rfl
@[simp] theorem State.sckFalls_offers (s : State) : (s.sckFalls).offers = s.offers := by
  unfold State.sckFalls; split <;> rfl
@[simp] theorem State.sckFalls_line (s : State) : (s.sckFalls).line = s.line := by
  unfold State.sckFalls; split <;> rfl
@[simp] theorem State.sckFalls_streak (s : State) : (s.sckFalls).streak = s.streak := by
  unfold State.sckFalls; split <;> rfl
@[simp] theorem State.sckFalls_listenTimer (s : State) : (s.sckFalls).listenTimer = s.listenTimer := by
  unfold State.sckFalls; split <;> rfl
@[simp] theorem State.sckFalls_lineIdle (s : State) : (s.sckFalls).lineIdle = s.lineIdle := by
  unfold State.sckFalls; split <;> rfl
@[simp] theorem State.sckFalls_assembling (s : State) : (s.sckFalls).assembling = s.assembling := by
  unfold State.sckFalls; split <;> rfl
@[simp] theorem State.sckFalls_bits (s : State) : (s.sckFalls).bits = s.bits := by
  unfold State.sckFalls; split <;> rfl
@[simp] theorem State.sckFalls_freeDraws (s : State) : (s.sckFalls).freeDraws = s.freeDraws := by
  unfold State.sckFalls; split <;> rfl
@[simp] theorem State.sckFalls_pending (s : State) : (s.sckFalls).pending = s.pending := by
  unfold State.sckFalls; split <;> rfl
@[simp] theorem State.sckFalls_wires (s : State) : (s.sckFalls).wires = s.wires := by
  unfold State.sckFalls; split <;> rfl

/-! ### `State.addOffer` -/

@[simp] theorem State.addOffer_config (s : State) (i : OfferItem) : (s.addOffer i).config = s.config := by
  unfold State.addOffer; split <;> rfl
@[simp] theorem State.addOffer_startCause (s : State) (i : OfferItem) : (s.addOffer i).startCause = s.startCause := by
  unfold State.addOffer; split <;> rfl
@[simp] theorem State.addOffer_firstReset (s : State) (i : OfferItem) : (s.addOffer i).firstReset = s.firstReset := by
  unfold State.addOffer; split <;> rfl
@[simp] theorem State.addOffer_supplyHold (s : State) (i : OfferItem) : (s.addOffer i).supplyHold = s.supplyHold := by
  unfold State.addOffer; split <;> rfl
@[simp] theorem State.addOffer_pinHold (s : State) (i : OfferItem) : (s.addOffer i).pinHold = s.pinHold := by
  unfold State.addOffer; split <;> rfl
@[simp] theorem State.addOffer_scsLow (s : State) (i : OfferItem) : (s.addOffer i).scsLow = s.scsLow := by
  unfold State.addOffer; split <;> rfl
@[simp] theorem State.addOffer_txn (s : State) (i : OfferItem) : (s.addOffer i).txn = s.txn := by
  unfold State.addOffer; split <;> rfl
@[simp] theorem State.addOffer_spi (s : State) (i : OfferItem) : (s.addOffer i).spi = s.spi := by
  unfold State.addOffer; split <;> rfl
@[simp] theorem State.addOffer_notices (s : State) (i : OfferItem) : (s.addOffer i).notices = s.notices := by
  unfold State.addOffer; split <;> rfl
@[simp] theorem State.addOffer_freeSlots (s : State) (i : OfferItem) : (s.addOffer i).freeSlots = s.freeSlots := by
  unfold State.addOffer; split <;> rfl
@[simp] theorem State.addOffer_streams (s : State) (i : OfferItem) : (s.addOffer i).streams = s.streams := by
  unfold State.addOffer; split <;> rfl
@[simp] theorem State.addOffer_frameOffset (s : State) (i : OfferItem) :
    (s.addOffer i).frameOffset = s.frameOffset := by
  unfold State.addOffer; split <;> rfl
@[simp] theorem State.addOffer_frameInProgress (s : State) (i : OfferItem) :
    (s.addOffer i).frameInProgress = s.frameInProgress := by
  unfold State.addOffer; split <;> rfl
@[simp] theorem State.addOffer_frameBits (s : State) (i : OfferItem) : (s.addOffer i).frameBits = s.frameBits := by
  unfold State.addOffer; split <;> rfl
@[simp] theorem State.addOffer_fsyncHigh (s : State) (i : OfferItem) : (s.addOffer i).fsyncHigh = s.fsyncHigh := by
  unfold State.addOffer; split <;> rfl
@[simp] theorem State.addOffer_subs (s : State) (i : OfferItem) : (s.addOffer i).subs = s.subs := by
  unfold State.addOffer; split <;> rfl
@[simp] theorem State.addOffer_markNo (s : State) (i : OfferItem) : (s.addOffer i).markNo = s.markNo := by
  unfold State.addOffer; split <;> rfl
@[simp] theorem State.addOffer_markPending (s : State) (i : OfferItem) :
    (s.addOffer i).markPending = s.markPending := by
  unfold State.addOffer; split <;> rfl
@[simp] theorem State.addOffer_lastMark (s : State) (i : OfferItem) : (s.addOffer i).lastMark = s.lastMark := by
  unfold State.addOffer; split <;> rfl
@[simp] theorem State.addOffer_intervalTimer (s : State) (i : OfferItem) :
    (s.addOffer i).intervalTimer = s.intervalTimer := by
  unfold State.addOffer; split <;> rfl
@[simp] theorem State.addOffer_roster (s : State) (i : OfferItem) : (s.addOffer i).roster = s.roster := by
  unfold State.addOffer; split <;> rfl
@[simp] theorem State.addOffer_presenceTimer (s : State) (i : OfferItem) :
    (s.addOffer i).presenceTimer = s.presenceTimer := by
  unfold State.addOffer; split <;> rfl
@[simp] theorem State.addOffer_line (s : State) (i : OfferItem) : (s.addOffer i).line = s.line := by
  unfold State.addOffer; split <;> rfl
@[simp] theorem State.addOffer_streak (s : State) (i : OfferItem) : (s.addOffer i).streak = s.streak := by
  unfold State.addOffer; split <;> rfl
@[simp] theorem State.addOffer_listenTimer (s : State) (i : OfferItem) :
    (s.addOffer i).listenTimer = s.listenTimer := by
  unfold State.addOffer; split <;> rfl
@[simp] theorem State.addOffer_lineIdle (s : State) (i : OfferItem) : (s.addOffer i).lineIdle = s.lineIdle := by
  unfold State.addOffer; split <;> rfl
@[simp] theorem State.addOffer_assembling (s : State) (i : OfferItem) : (s.addOffer i).assembling = s.assembling := by
  unfold State.addOffer; split <;> rfl
@[simp] theorem State.addOffer_bits (s : State) (i : OfferItem) : (s.addOffer i).bits = s.bits := by
  unfold State.addOffer; split <;> rfl
@[simp] theorem State.addOffer_freeDraws (s : State) (i : OfferItem) : (s.addOffer i).freeDraws = s.freeDraws := by
  unfold State.addOffer; split <;> rfl
@[simp] theorem State.addOffer_pending (s : State) (i : OfferItem) : (s.addOffer i).pending = s.pending := by
  unfold State.addOffer; split <;> rfl
@[simp] theorem State.addOffer_wires (s : State) (i : OfferItem) : (s.addOffer i).wires = s.wires := by
  unfold State.addOffer; split <;> rfl

/-! ### `State.announce` -/

@[simp] theorem State.announce_config (s : State) : (s.announce).config = s.config := by
  unfold State.announce; split <;> simp
@[simp] theorem State.announce_startCause (s : State) : (s.announce).startCause = s.startCause := by
  unfold State.announce; split <;> simp
@[simp] theorem State.announce_firstReset (s : State) : (s.announce).firstReset = s.firstReset := by
  unfold State.announce; split <;> simp
@[simp] theorem State.announce_supplyHold (s : State) : (s.announce).supplyHold = s.supplyHold := by
  unfold State.announce; split <;> simp
@[simp] theorem State.announce_pinHold (s : State) : (s.announce).pinHold = s.pinHold := by
  unfold State.announce; split <;> simp
@[simp] theorem State.announce_scsLow (s : State) : (s.announce).scsLow = s.scsLow := by
  unfold State.announce; split <;> simp
@[simp] theorem State.announce_txn (s : State) : (s.announce).txn = s.txn := by
  unfold State.announce; split <;> simp
@[simp] theorem State.announce_spi (s : State) : (s.announce).spi = s.spi := by
  unfold State.announce; split <;> simp
@[simp] theorem State.announce_notices (s : State) : (s.announce).notices = s.notices := by
  unfold State.announce; split <;> simp
@[simp] theorem State.announce_freeSlots (s : State) : (s.announce).freeSlots = s.freeSlots := by
  unfold State.announce; split <;> simp
@[simp] theorem State.announce_streams (s : State) : (s.announce).streams = s.streams := by
  unfold State.announce; split <;> simp
@[simp] theorem State.announce_frameOffset (s : State) : (s.announce).frameOffset = s.frameOffset := by
  unfold State.announce; split <;> simp
@[simp] theorem State.announce_frameInProgress (s : State) : (s.announce).frameInProgress = s.frameInProgress := by
  unfold State.announce; split <;> simp
@[simp] theorem State.announce_frameBits (s : State) : (s.announce).frameBits = s.frameBits := by
  unfold State.announce; split <;> simp
@[simp] theorem State.announce_fsyncHigh (s : State) : (s.announce).fsyncHigh = s.fsyncHigh := by
  unfold State.announce; split <;> simp
@[simp] theorem State.announce_subs (s : State) : (s.announce).subs = s.subs := by
  unfold State.announce; split <;> simp
@[simp] theorem State.announce_markNo (s : State) : (s.announce).markNo = s.markNo := by
  unfold State.announce; split <;> simp
@[simp] theorem State.announce_markPending (s : State) : (s.announce).markPending = s.markPending := by
  unfold State.announce; split <;> simp
@[simp] theorem State.announce_lastMark (s : State) : (s.announce).lastMark = s.lastMark := by
  unfold State.announce; split <;> simp
@[simp] theorem State.announce_intervalTimer (s : State) : (s.announce).intervalTimer = s.intervalTimer := by
  unfold State.announce; split <;> simp
@[simp] theorem State.announce_roster (s : State) : (s.announce).roster = s.roster := by
  unfold State.announce; split <;> simp
@[simp] theorem State.announce_presenceTimer (s : State) : (s.announce).presenceTimer = s.presenceTimer := by
  unfold State.announce; split <;> simp
@[simp] theorem State.announce_line (s : State) : (s.announce).line = s.line := by
  unfold State.announce; split <;> simp
@[simp] theorem State.announce_streak (s : State) : (s.announce).streak = s.streak := by
  unfold State.announce; split <;> simp
@[simp] theorem State.announce_listenTimer (s : State) : (s.announce).listenTimer = s.listenTimer := by
  unfold State.announce; split <;> simp
@[simp] theorem State.announce_lineIdle (s : State) : (s.announce).lineIdle = s.lineIdle := by
  unfold State.announce; split <;> simp
@[simp] theorem State.announce_assembling (s : State) : (s.announce).assembling = s.assembling := by
  unfold State.announce; split <;> simp
@[simp] theorem State.announce_bits (s : State) : (s.announce).bits = s.bits := by
  unfold State.announce; split <;> simp
@[simp] theorem State.announce_freeDraws (s : State) : (s.announce).freeDraws = s.freeDraws := by
  unfold State.announce; split <;> simp
@[simp] theorem State.announce_pending (s : State) : (s.announce).pending = s.pending := by
  unfold State.announce; split <;> simp
@[simp] theorem State.announce_wires (s : State) : (s.announce).wires = s.wires := by
  unfold State.announce; split <;> simp

/-! ### `State.setRepair` -/

@[simp] theorem State.setRepair_config (s : State) (h : SubHandle) (r : Repair) :
    (s.setRepair h r).config = s.config := by
  simp [State.setRepair]
@[simp] theorem State.setRepair_startCause (s : State) (h : SubHandle) (r : Repair) :
    (s.setRepair h r).startCause = s.startCause := by
  simp [State.setRepair]
@[simp] theorem State.setRepair_firstReset (s : State) (h : SubHandle) (r : Repair) :
    (s.setRepair h r).firstReset = s.firstReset := by
  simp [State.setRepair]
@[simp] theorem State.setRepair_supplyHold (s : State) (h : SubHandle) (r : Repair) :
    (s.setRepair h r).supplyHold = s.supplyHold := by
  simp [State.setRepair]
@[simp] theorem State.setRepair_pinHold (s : State) (h : SubHandle) (r : Repair) :
    (s.setRepair h r).pinHold = s.pinHold := by
  simp [State.setRepair]
@[simp] theorem State.setRepair_scsLow (s : State) (h : SubHandle) (r : Repair) :
    (s.setRepair h r).scsLow = s.scsLow := by
  simp [State.setRepair]
@[simp] theorem State.setRepair_txn (s : State) (h : SubHandle) (r : Repair) : (s.setRepair h r).txn = s.txn := by
  simp [State.setRepair]
@[simp] theorem State.setRepair_spi (s : State) (h : SubHandle) (r : Repair) : (s.setRepair h r).spi = s.spi := by
  simp [State.setRepair]
@[simp] theorem State.setRepair_notices (s : State) (h : SubHandle) (r : Repair) :
    (s.setRepair h r).notices = s.notices := by
  simp [State.setRepair]
@[simp] theorem State.setRepair_freeSlots (s : State) (h : SubHandle) (r : Repair) :
    (s.setRepair h r).freeSlots = s.freeSlots := by
  simp [State.setRepair]
@[simp] theorem State.setRepair_streams (s : State) (h : SubHandle) (r : Repair) :
    (s.setRepair h r).streams = s.streams := by
  simp [State.setRepair]
@[simp] theorem State.setRepair_frameOffset (s : State) (h : SubHandle) (r : Repair) :
    (s.setRepair h r).frameOffset = s.frameOffset := by
  simp [State.setRepair]
@[simp] theorem State.setRepair_frameInProgress (s : State) (h : SubHandle) (r : Repair) :
    (s.setRepair h r).frameInProgress = s.frameInProgress := by
  simp [State.setRepair]
@[simp] theorem State.setRepair_frameBits (s : State) (h : SubHandle) (r : Repair) :
    (s.setRepair h r).frameBits = s.frameBits := by
  simp [State.setRepair]
@[simp] theorem State.setRepair_fsyncHigh (s : State) (h : SubHandle) (r : Repair) :
    (s.setRepair h r).fsyncHigh = s.fsyncHigh := by
  simp [State.setRepair]
@[simp] theorem State.setRepair_markNo (s : State) (h : SubHandle) (r : Repair) :
    (s.setRepair h r).markNo = s.markNo := by
  simp [State.setRepair]
@[simp] theorem State.setRepair_markPending (s : State) (h : SubHandle) (r : Repair) :
    (s.setRepair h r).markPending = s.markPending := by
  simp [State.setRepair]
@[simp] theorem State.setRepair_lastMark (s : State) (h : SubHandle) (r : Repair) :
    (s.setRepair h r).lastMark = s.lastMark := by
  simp [State.setRepair]
@[simp] theorem State.setRepair_intervalTimer (s : State) (h : SubHandle) (r : Repair) :
    (s.setRepair h r).intervalTimer = s.intervalTimer := by
  simp [State.setRepair]
@[simp] theorem State.setRepair_roster (s : State) (h : SubHandle) (r : Repair) :
    (s.setRepair h r).roster = s.roster := by
  simp [State.setRepair]
@[simp] theorem State.setRepair_presenceTimer (s : State) (h : SubHandle) (r : Repair) :
    (s.setRepair h r).presenceTimer = s.presenceTimer := by
  simp [State.setRepair]
@[simp] theorem State.setRepair_offers (s : State) (h : SubHandle) (r : Repair) :
    (s.setRepair h r).offers = s.offers := by
  simp [State.setRepair]
@[simp] theorem State.setRepair_line (s : State) (h : SubHandle) (r : Repair) : (s.setRepair h r).line = s.line := by
  simp [State.setRepair]
@[simp] theorem State.setRepair_streak (s : State) (h : SubHandle) (r : Repair) :
    (s.setRepair h r).streak = s.streak := by
  simp [State.setRepair]
@[simp] theorem State.setRepair_listenTimer (s : State) (h : SubHandle) (r : Repair) :
    (s.setRepair h r).listenTimer = s.listenTimer := by
  simp [State.setRepair]
@[simp] theorem State.setRepair_lineIdle (s : State) (h : SubHandle) (r : Repair) :
    (s.setRepair h r).lineIdle = s.lineIdle := by
  simp [State.setRepair]
@[simp] theorem State.setRepair_assembling (s : State) (h : SubHandle) (r : Repair) :
    (s.setRepair h r).assembling = s.assembling := by
  simp [State.setRepair]
@[simp] theorem State.setRepair_bits (s : State) (h : SubHandle) (r : Repair) : (s.setRepair h r).bits = s.bits := by
  simp [State.setRepair]
@[simp] theorem State.setRepair_freeDraws (s : State) (h : SubHandle) (r : Repair) :
    (s.setRepair h r).freeDraws = s.freeDraws := by
  simp [State.setRepair]
@[simp] theorem State.setRepair_pending (s : State) (h : SubHandle) (r : Repair) :
    (s.setRepair h r).pending = s.pending := by
  simp [State.setRepair]
@[simp] theorem State.setRepair_wires (s : State) (h : SubHandle) (r : Repair) : (s.setRepair h r).wires = s.wires := by
  simp [State.setRepair]

/-! ### `State.moveRepair` -/

@[simp] theorem State.moveRepair_config (s : State) (h : SubHandle) (x : RepairState) (t : RepairTimer) :
    (s.moveRepair h x t).config = s.config := by
  simp [State.moveRepair]
@[simp] theorem State.moveRepair_startCause (s : State) (h : SubHandle) (x : RepairState) (t : RepairTimer) :
    (s.moveRepair h x t).startCause = s.startCause := by
  simp [State.moveRepair]
@[simp] theorem State.moveRepair_firstReset (s : State) (h : SubHandle) (x : RepairState) (t : RepairTimer) :
    (s.moveRepair h x t).firstReset = s.firstReset := by
  simp [State.moveRepair]
@[simp] theorem State.moveRepair_supplyHold (s : State) (h : SubHandle) (x : RepairState) (t : RepairTimer) :
    (s.moveRepair h x t).supplyHold = s.supplyHold := by
  simp [State.moveRepair]
@[simp] theorem State.moveRepair_pinHold (s : State) (h : SubHandle) (x : RepairState) (t : RepairTimer) :
    (s.moveRepair h x t).pinHold = s.pinHold := by
  simp [State.moveRepair]
@[simp] theorem State.moveRepair_scsLow (s : State) (h : SubHandle) (x : RepairState) (t : RepairTimer) :
    (s.moveRepair h x t).scsLow = s.scsLow := by
  simp [State.moveRepair]
@[simp] theorem State.moveRepair_txn (s : State) (h : SubHandle) (x : RepairState) (t : RepairTimer) :
    (s.moveRepair h x t).txn = s.txn := by
  simp [State.moveRepair]
@[simp] theorem State.moveRepair_spi (s : State) (h : SubHandle) (x : RepairState) (t : RepairTimer) :
    (s.moveRepair h x t).spi = s.spi := by
  simp [State.moveRepair]
@[simp] theorem State.moveRepair_notices (s : State) (h : SubHandle) (x : RepairState) (t : RepairTimer) :
    (s.moveRepair h x t).notices = s.notices := by
  simp [State.moveRepair]
@[simp] theorem State.moveRepair_freeSlots (s : State) (h : SubHandle) (x : RepairState) (t : RepairTimer) :
    (s.moveRepair h x t).freeSlots = s.freeSlots := by
  simp [State.moveRepair]
@[simp] theorem State.moveRepair_streams (s : State) (h : SubHandle) (x : RepairState) (t : RepairTimer) :
    (s.moveRepair h x t).streams = s.streams := by
  simp [State.moveRepair]
@[simp] theorem State.moveRepair_frameOffset (s : State) (h : SubHandle) (x : RepairState) (t : RepairTimer) :
    (s.moveRepair h x t).frameOffset = s.frameOffset := by
  simp [State.moveRepair]
@[simp] theorem State.moveRepair_frameInProgress (s : State) (h : SubHandle) (x : RepairState) (t : RepairTimer) :
    (s.moveRepair h x t).frameInProgress = s.frameInProgress := by
  simp [State.moveRepair]
@[simp] theorem State.moveRepair_frameBits (s : State) (h : SubHandle) (x : RepairState) (t : RepairTimer) :
    (s.moveRepair h x t).frameBits = s.frameBits := by
  simp [State.moveRepair]
@[simp] theorem State.moveRepair_fsyncHigh (s : State) (h : SubHandle) (x : RepairState) (t : RepairTimer) :
    (s.moveRepair h x t).fsyncHigh = s.fsyncHigh := by
  simp [State.moveRepair]
@[simp] theorem State.moveRepair_markNo (s : State) (h : SubHandle) (x : RepairState) (t : RepairTimer) :
    (s.moveRepair h x t).markNo = s.markNo := by
  simp [State.moveRepair]
@[simp] theorem State.moveRepair_markPending (s : State) (h : SubHandle) (x : RepairState) (t : RepairTimer) :
    (s.moveRepair h x t).markPending = s.markPending := by
  simp [State.moveRepair]
@[simp] theorem State.moveRepair_lastMark (s : State) (h : SubHandle) (x : RepairState) (t : RepairTimer) :
    (s.moveRepair h x t).lastMark = s.lastMark := by
  simp [State.moveRepair]
@[simp] theorem State.moveRepair_intervalTimer (s : State) (h : SubHandle) (x : RepairState) (t : RepairTimer) :
    (s.moveRepair h x t).intervalTimer = s.intervalTimer := by
  simp [State.moveRepair]
@[simp] theorem State.moveRepair_roster (s : State) (h : SubHandle) (x : RepairState) (t : RepairTimer) :
    (s.moveRepair h x t).roster = s.roster := by
  simp [State.moveRepair]
@[simp] theorem State.moveRepair_presenceTimer (s : State) (h : SubHandle) (x : RepairState) (t : RepairTimer) :
    (s.moveRepair h x t).presenceTimer = s.presenceTimer := by
  simp [State.moveRepair]
@[simp] theorem State.moveRepair_offers (s : State) (h : SubHandle) (x : RepairState) (t : RepairTimer) :
    (s.moveRepair h x t).offers = s.offers := by
  simp [State.moveRepair]
@[simp] theorem State.moveRepair_line (s : State) (h : SubHandle) (x : RepairState) (t : RepairTimer) :
    (s.moveRepair h x t).line = s.line := by
  simp [State.moveRepair]
@[simp] theorem State.moveRepair_streak (s : State) (h : SubHandle) (x : RepairState) (t : RepairTimer) :
    (s.moveRepair h x t).streak = s.streak := by
  simp [State.moveRepair]
@[simp] theorem State.moveRepair_listenTimer (s : State) (h : SubHandle) (x : RepairState) (t : RepairTimer) :
    (s.moveRepair h x t).listenTimer = s.listenTimer := by
  simp [State.moveRepair]
@[simp] theorem State.moveRepair_lineIdle (s : State) (h : SubHandle) (x : RepairState) (t : RepairTimer) :
    (s.moveRepair h x t).lineIdle = s.lineIdle := by
  simp [State.moveRepair]
@[simp] theorem State.moveRepair_assembling (s : State) (h : SubHandle) (x : RepairState) (t : RepairTimer) :
    (s.moveRepair h x t).assembling = s.assembling := by
  simp [State.moveRepair]
@[simp] theorem State.moveRepair_bits (s : State) (h : SubHandle) (x : RepairState) (t : RepairTimer) :
    (s.moveRepair h x t).bits = s.bits := by
  simp [State.moveRepair]
@[simp] theorem State.moveRepair_freeDraws (s : State) (h : SubHandle) (x : RepairState) (t : RepairTimer) :
    (s.moveRepair h x t).freeDraws = s.freeDraws := by
  simp [State.moveRepair]
@[simp] theorem State.moveRepair_pending (s : State) (h : SubHandle) (x : RepairState) (t : RepairTimer) :
    (s.moveRepair h x t).pending = s.pending := by
  simp [State.moveRepair]
@[simp] theorem State.moveRepair_wires (s : State) (h : SubHandle) (x : RepairState) (t : RepairTimer) :
    (s.moveRepair h x t).wires = s.wires := by
  simp [State.moveRepair]

/-! ### `State.clearAttempts` -/

@[simp] theorem State.clearAttempts_config (s : State) (h : SubHandle) : (s.clearAttempts h).config = s.config := by
  simp [State.clearAttempts]
@[simp] theorem State.clearAttempts_startCause (s : State) (h : SubHandle) :
    (s.clearAttempts h).startCause = s.startCause := by
  simp [State.clearAttempts]
@[simp] theorem State.clearAttempts_firstReset (s : State) (h : SubHandle) :
    (s.clearAttempts h).firstReset = s.firstReset := by
  simp [State.clearAttempts]
@[simp] theorem State.clearAttempts_supplyHold (s : State) (h : SubHandle) :
    (s.clearAttempts h).supplyHold = s.supplyHold := by
  simp [State.clearAttempts]
@[simp] theorem State.clearAttempts_pinHold (s : State) (h : SubHandle) : (s.clearAttempts h).pinHold = s.pinHold := by
  simp [State.clearAttempts]
@[simp] theorem State.clearAttempts_scsLow (s : State) (h : SubHandle) : (s.clearAttempts h).scsLow = s.scsLow := by
  simp [State.clearAttempts]
@[simp] theorem State.clearAttempts_txn (s : State) (h : SubHandle) : (s.clearAttempts h).txn = s.txn := by
  simp [State.clearAttempts]
@[simp] theorem State.clearAttempts_spi (s : State) (h : SubHandle) : (s.clearAttempts h).spi = s.spi := by
  simp [State.clearAttempts]
@[simp] theorem State.clearAttempts_notices (s : State) (h : SubHandle) : (s.clearAttempts h).notices = s.notices := by
  simp [State.clearAttempts]
@[simp] theorem State.clearAttempts_freeSlots (s : State) (h : SubHandle) :
    (s.clearAttempts h).freeSlots = s.freeSlots := by
  simp [State.clearAttempts]
@[simp] theorem State.clearAttempts_streams (s : State) (h : SubHandle) : (s.clearAttempts h).streams = s.streams := by
  simp [State.clearAttempts]
@[simp] theorem State.clearAttempts_frameOffset (s : State) (h : SubHandle) :
    (s.clearAttempts h).frameOffset = s.frameOffset := by
  simp [State.clearAttempts]
@[simp] theorem State.clearAttempts_frameInProgress (s : State) (h : SubHandle) :
    (s.clearAttempts h).frameInProgress = s.frameInProgress := by
  simp [State.clearAttempts]
@[simp] theorem State.clearAttempts_frameBits (s : State) (h : SubHandle) :
    (s.clearAttempts h).frameBits = s.frameBits := by
  simp [State.clearAttempts]
@[simp] theorem State.clearAttempts_fsyncHigh (s : State) (h : SubHandle) :
    (s.clearAttempts h).fsyncHigh = s.fsyncHigh := by
  simp [State.clearAttempts]
@[simp] theorem State.clearAttempts_markNo (s : State) (h : SubHandle) : (s.clearAttempts h).markNo = s.markNo := by
  simp [State.clearAttempts]
@[simp] theorem State.clearAttempts_markPending (s : State) (h : SubHandle) :
    (s.clearAttempts h).markPending = s.markPending := by
  simp [State.clearAttempts]
@[simp] theorem State.clearAttempts_lastMark (s : State) (h : SubHandle) :
    (s.clearAttempts h).lastMark = s.lastMark := by
  simp [State.clearAttempts]
@[simp] theorem State.clearAttempts_intervalTimer (s : State) (h : SubHandle) :
    (s.clearAttempts h).intervalTimer = s.intervalTimer := by
  simp [State.clearAttempts]
@[simp] theorem State.clearAttempts_roster (s : State) (h : SubHandle) : (s.clearAttempts h).roster = s.roster := by
  simp [State.clearAttempts]
@[simp] theorem State.clearAttempts_presenceTimer (s : State) (h : SubHandle) :
    (s.clearAttempts h).presenceTimer = s.presenceTimer := by
  simp [State.clearAttempts]
@[simp] theorem State.clearAttempts_offers (s : State) (h : SubHandle) : (s.clearAttempts h).offers = s.offers := by
  simp [State.clearAttempts]
@[simp] theorem State.clearAttempts_line (s : State) (h : SubHandle) : (s.clearAttempts h).line = s.line := by
  simp [State.clearAttempts]
@[simp] theorem State.clearAttempts_streak (s : State) (h : SubHandle) : (s.clearAttempts h).streak = s.streak := by
  simp [State.clearAttempts]
@[simp] theorem State.clearAttempts_listenTimer (s : State) (h : SubHandle) :
    (s.clearAttempts h).listenTimer = s.listenTimer := by
  simp [State.clearAttempts]
@[simp] theorem State.clearAttempts_lineIdle (s : State) (h : SubHandle) :
    (s.clearAttempts h).lineIdle = s.lineIdle := by
  simp [State.clearAttempts]
@[simp] theorem State.clearAttempts_assembling (s : State) (h : SubHandle) :
    (s.clearAttempts h).assembling = s.assembling := by
  simp [State.clearAttempts]
@[simp] theorem State.clearAttempts_bits (s : State) (h : SubHandle) : (s.clearAttempts h).bits = s.bits := by
  simp [State.clearAttempts]
@[simp] theorem State.clearAttempts_freeDraws (s : State) (h : SubHandle) :
    (s.clearAttempts h).freeDraws = s.freeDraws := by
  simp [State.clearAttempts]
@[simp] theorem State.clearAttempts_pending (s : State) (h : SubHandle) : (s.clearAttempts h).pending = s.pending := by
  simp [State.clearAttempts]
@[simp] theorem State.clearAttempts_wires (s : State) (h : SubHandle) : (s.clearAttempts h).wires = s.wires := by
  simp [State.clearAttempts]

/-! ### `State.forgetHorizon` -/

@[simp] theorem State.forgetHorizon_config (s : State) (h : SubHandle) : (s.forgetHorizon h).config = s.config := by
  simp [State.forgetHorizon]
@[simp] theorem State.forgetHorizon_startCause (s : State) (h : SubHandle) :
    (s.forgetHorizon h).startCause = s.startCause := by
  simp [State.forgetHorizon]
@[simp] theorem State.forgetHorizon_firstReset (s : State) (h : SubHandle) :
    (s.forgetHorizon h).firstReset = s.firstReset := by
  simp [State.forgetHorizon]
@[simp] theorem State.forgetHorizon_supplyHold (s : State) (h : SubHandle) :
    (s.forgetHorizon h).supplyHold = s.supplyHold := by
  simp [State.forgetHorizon]
@[simp] theorem State.forgetHorizon_pinHold (s : State) (h : SubHandle) : (s.forgetHorizon h).pinHold = s.pinHold := by
  simp [State.forgetHorizon]
@[simp] theorem State.forgetHorizon_scsLow (s : State) (h : SubHandle) : (s.forgetHorizon h).scsLow = s.scsLow := by
  simp [State.forgetHorizon]
@[simp] theorem State.forgetHorizon_txn (s : State) (h : SubHandle) : (s.forgetHorizon h).txn = s.txn := by
  simp [State.forgetHorizon]
@[simp] theorem State.forgetHorizon_spi (s : State) (h : SubHandle) : (s.forgetHorizon h).spi = s.spi := by
  simp [State.forgetHorizon]
@[simp] theorem State.forgetHorizon_notices (s : State) (h : SubHandle) : (s.forgetHorizon h).notices = s.notices := by
  simp [State.forgetHorizon]
@[simp] theorem State.forgetHorizon_freeSlots (s : State) (h : SubHandle) :
    (s.forgetHorizon h).freeSlots = s.freeSlots := by
  simp [State.forgetHorizon]
@[simp] theorem State.forgetHorizon_streams (s : State) (h : SubHandle) : (s.forgetHorizon h).streams = s.streams := by
  simp [State.forgetHorizon]
@[simp] theorem State.forgetHorizon_frameOffset (s : State) (h : SubHandle) :
    (s.forgetHorizon h).frameOffset = s.frameOffset := by
  simp [State.forgetHorizon]
@[simp] theorem State.forgetHorizon_frameInProgress (s : State) (h : SubHandle) :
    (s.forgetHorizon h).frameInProgress = s.frameInProgress := by
  simp [State.forgetHorizon]
@[simp] theorem State.forgetHorizon_frameBits (s : State) (h : SubHandle) :
    (s.forgetHorizon h).frameBits = s.frameBits := by
  simp [State.forgetHorizon]
@[simp] theorem State.forgetHorizon_fsyncHigh (s : State) (h : SubHandle) :
    (s.forgetHorizon h).fsyncHigh = s.fsyncHigh := by
  simp [State.forgetHorizon]
@[simp] theorem State.forgetHorizon_markNo (s : State) (h : SubHandle) : (s.forgetHorizon h).markNo = s.markNo := by
  simp [State.forgetHorizon]
@[simp] theorem State.forgetHorizon_markPending (s : State) (h : SubHandle) :
    (s.forgetHorizon h).markPending = s.markPending := by
  simp [State.forgetHorizon]
@[simp] theorem State.forgetHorizon_lastMark (s : State) (h : SubHandle) :
    (s.forgetHorizon h).lastMark = s.lastMark := by
  simp [State.forgetHorizon]
@[simp] theorem State.forgetHorizon_intervalTimer (s : State) (h : SubHandle) :
    (s.forgetHorizon h).intervalTimer = s.intervalTimer := by
  simp [State.forgetHorizon]
@[simp] theorem State.forgetHorizon_roster (s : State) (h : SubHandle) : (s.forgetHorizon h).roster = s.roster := by
  simp [State.forgetHorizon]
@[simp] theorem State.forgetHorizon_presenceTimer (s : State) (h : SubHandle) :
    (s.forgetHorizon h).presenceTimer = s.presenceTimer := by
  simp [State.forgetHorizon]
@[simp] theorem State.forgetHorizon_offers (s : State) (h : SubHandle) : (s.forgetHorizon h).offers = s.offers := by
  simp [State.forgetHorizon]
@[simp] theorem State.forgetHorizon_line (s : State) (h : SubHandle) : (s.forgetHorizon h).line = s.line := by
  simp [State.forgetHorizon]
@[simp] theorem State.forgetHorizon_streak (s : State) (h : SubHandle) : (s.forgetHorizon h).streak = s.streak := by
  simp [State.forgetHorizon]
@[simp] theorem State.forgetHorizon_listenTimer (s : State) (h : SubHandle) :
    (s.forgetHorizon h).listenTimer = s.listenTimer := by
  simp [State.forgetHorizon]
@[simp] theorem State.forgetHorizon_lineIdle (s : State) (h : SubHandle) :
    (s.forgetHorizon h).lineIdle = s.lineIdle := by
  simp [State.forgetHorizon]
@[simp] theorem State.forgetHorizon_assembling (s : State) (h : SubHandle) :
    (s.forgetHorizon h).assembling = s.assembling := by
  simp [State.forgetHorizon]
@[simp] theorem State.forgetHorizon_bits (s : State) (h : SubHandle) : (s.forgetHorizon h).bits = s.bits := by
  simp [State.forgetHorizon]
@[simp] theorem State.forgetHorizon_freeDraws (s : State) (h : SubHandle) :
    (s.forgetHorizon h).freeDraws = s.freeDraws := by
  simp [State.forgetHorizon]
@[simp] theorem State.forgetHorizon_pending (s : State) (h : SubHandle) : (s.forgetHorizon h).pending = s.pending := by
  simp [State.forgetHorizon]
@[simp] theorem State.forgetHorizon_wires (s : State) (h : SubHandle) : (s.forgetHorizon h).wires = s.wires := by
  simp [State.forgetHorizon]

/-! ### `State.setBuilder` -/

@[simp] theorem State.setBuilder_config (s : State) (n : StreamNo) (b : Builder) :
    (s.setBuilder n b).config = s.config := by
  simp [State.setBuilder]
@[simp] theorem State.setBuilder_startCause (s : State) (n : StreamNo) (b : Builder) :
    (s.setBuilder n b).startCause = s.startCause := by
  simp [State.setBuilder]
@[simp] theorem State.setBuilder_firstReset (s : State) (n : StreamNo) (b : Builder) :
    (s.setBuilder n b).firstReset = s.firstReset := by
  simp [State.setBuilder]
@[simp] theorem State.setBuilder_supplyHold (s : State) (n : StreamNo) (b : Builder) :
    (s.setBuilder n b).supplyHold = s.supplyHold := by
  simp [State.setBuilder]
@[simp] theorem State.setBuilder_pinHold (s : State) (n : StreamNo) (b : Builder) :
    (s.setBuilder n b).pinHold = s.pinHold := by
  simp [State.setBuilder]
@[simp] theorem State.setBuilder_scsLow (s : State) (n : StreamNo) (b : Builder) :
    (s.setBuilder n b).scsLow = s.scsLow := by
  simp [State.setBuilder]
@[simp] theorem State.setBuilder_txn (s : State) (n : StreamNo) (b : Builder) : (s.setBuilder n b).txn = s.txn := by
  simp [State.setBuilder]
@[simp] theorem State.setBuilder_spi (s : State) (n : StreamNo) (b : Builder) : (s.setBuilder n b).spi = s.spi := by
  simp [State.setBuilder]
@[simp] theorem State.setBuilder_notices (s : State) (n : StreamNo) (b : Builder) :
    (s.setBuilder n b).notices = s.notices := by
  simp [State.setBuilder]
@[simp] theorem State.setBuilder_freeSlots (s : State) (n : StreamNo) (b : Builder) :
    (s.setBuilder n b).freeSlots = s.freeSlots := by
  simp [State.setBuilder]
@[simp] theorem State.setBuilder_frameOffset (s : State) (n : StreamNo) (b : Builder) :
    (s.setBuilder n b).frameOffset = s.frameOffset := by
  simp [State.setBuilder]
@[simp] theorem State.setBuilder_frameInProgress (s : State) (n : StreamNo) (b : Builder) :
    (s.setBuilder n b).frameInProgress = s.frameInProgress := by
  simp [State.setBuilder]
@[simp] theorem State.setBuilder_frameBits (s : State) (n : StreamNo) (b : Builder) :
    (s.setBuilder n b).frameBits = s.frameBits := by
  simp [State.setBuilder]
@[simp] theorem State.setBuilder_fsyncHigh (s : State) (n : StreamNo) (b : Builder) :
    (s.setBuilder n b).fsyncHigh = s.fsyncHigh := by
  simp [State.setBuilder]
@[simp] theorem State.setBuilder_subs (s : State) (n : StreamNo) (b : Builder) : (s.setBuilder n b).subs = s.subs := by
  simp [State.setBuilder]
@[simp] theorem State.setBuilder_markNo (s : State) (n : StreamNo) (b : Builder) :
    (s.setBuilder n b).markNo = s.markNo := by
  simp [State.setBuilder]
@[simp] theorem State.setBuilder_markPending (s : State) (n : StreamNo) (b : Builder) :
    (s.setBuilder n b).markPending = s.markPending := by
  simp [State.setBuilder]
@[simp] theorem State.setBuilder_lastMark (s : State) (n : StreamNo) (b : Builder) :
    (s.setBuilder n b).lastMark = s.lastMark := by
  simp [State.setBuilder]
@[simp] theorem State.setBuilder_intervalTimer (s : State) (n : StreamNo) (b : Builder) :
    (s.setBuilder n b).intervalTimer = s.intervalTimer := by
  simp [State.setBuilder]
@[simp] theorem State.setBuilder_roster (s : State) (n : StreamNo) (b : Builder) :
    (s.setBuilder n b).roster = s.roster := by
  simp [State.setBuilder]
@[simp] theorem State.setBuilder_presenceTimer (s : State) (n : StreamNo) (b : Builder) :
    (s.setBuilder n b).presenceTimer = s.presenceTimer := by
  simp [State.setBuilder]
@[simp] theorem State.setBuilder_offers (s : State) (n : StreamNo) (b : Builder) :
    (s.setBuilder n b).offers = s.offers := by
  simp [State.setBuilder]
@[simp] theorem State.setBuilder_line (s : State) (n : StreamNo) (b : Builder) : (s.setBuilder n b).line = s.line := by
  simp [State.setBuilder]
@[simp] theorem State.setBuilder_streak (s : State) (n : StreamNo) (b : Builder) :
    (s.setBuilder n b).streak = s.streak := by
  simp [State.setBuilder]
@[simp] theorem State.setBuilder_listenTimer (s : State) (n : StreamNo) (b : Builder) :
    (s.setBuilder n b).listenTimer = s.listenTimer := by
  simp [State.setBuilder]
@[simp] theorem State.setBuilder_lineIdle (s : State) (n : StreamNo) (b : Builder) :
    (s.setBuilder n b).lineIdle = s.lineIdle := by
  simp [State.setBuilder]
@[simp] theorem State.setBuilder_assembling (s : State) (n : StreamNo) (b : Builder) :
    (s.setBuilder n b).assembling = s.assembling := by
  simp [State.setBuilder]
@[simp] theorem State.setBuilder_bits (s : State) (n : StreamNo) (b : Builder) : (s.setBuilder n b).bits = s.bits := by
  simp [State.setBuilder]
@[simp] theorem State.setBuilder_freeDraws (s : State) (n : StreamNo) (b : Builder) :
    (s.setBuilder n b).freeDraws = s.freeDraws := by
  simp [State.setBuilder]
@[simp] theorem State.setBuilder_pending (s : State) (n : StreamNo) (b : Builder) :
    (s.setBuilder n b).pending = s.pending := by
  simp [State.setBuilder]
@[simp] theorem State.setBuilder_wires (s : State) (n : StreamNo) (b : Builder) :
    (s.setBuilder n b).wires = s.wires := by
  simp [State.setBuilder]

/-! ### `State.countBacklog` -/

@[simp] theorem State.countBacklog_config (s : State) (n : StreamNo) : (s.countBacklog n).config = s.config := by
  simp [State.countBacklog]
@[simp] theorem State.countBacklog_startCause (s : State) (n : StreamNo) :
    (s.countBacklog n).startCause = s.startCause := by
  simp [State.countBacklog]
@[simp] theorem State.countBacklog_firstReset (s : State) (n : StreamNo) :
    (s.countBacklog n).firstReset = s.firstReset := by
  simp [State.countBacklog]
@[simp] theorem State.countBacklog_supplyHold (s : State) (n : StreamNo) :
    (s.countBacklog n).supplyHold = s.supplyHold := by
  simp [State.countBacklog]
@[simp] theorem State.countBacklog_pinHold (s : State) (n : StreamNo) : (s.countBacklog n).pinHold = s.pinHold := by
  simp [State.countBacklog]
@[simp] theorem State.countBacklog_scsLow (s : State) (n : StreamNo) : (s.countBacklog n).scsLow = s.scsLow := by
  simp [State.countBacklog]
@[simp] theorem State.countBacklog_txn (s : State) (n : StreamNo) : (s.countBacklog n).txn = s.txn := by
  simp [State.countBacklog]
@[simp] theorem State.countBacklog_spi (s : State) (n : StreamNo) : (s.countBacklog n).spi = s.spi := by
  simp [State.countBacklog]
@[simp] theorem State.countBacklog_notices (s : State) (n : StreamNo) : (s.countBacklog n).notices = s.notices := by
  simp [State.countBacklog]
@[simp] theorem State.countBacklog_freeSlots (s : State) (n : StreamNo) :
    (s.countBacklog n).freeSlots = s.freeSlots := by
  simp [State.countBacklog]
@[simp] theorem State.countBacklog_frameOffset (s : State) (n : StreamNo) :
    (s.countBacklog n).frameOffset = s.frameOffset := by
  simp [State.countBacklog]
@[simp] theorem State.countBacklog_frameInProgress (s : State) (n : StreamNo) :
    (s.countBacklog n).frameInProgress = s.frameInProgress := by
  simp [State.countBacklog]
@[simp] theorem State.countBacklog_frameBits (s : State) (n : StreamNo) :
    (s.countBacklog n).frameBits = s.frameBits := by
  simp [State.countBacklog]
@[simp] theorem State.countBacklog_fsyncHigh (s : State) (n : StreamNo) :
    (s.countBacklog n).fsyncHigh = s.fsyncHigh := by
  simp [State.countBacklog]
@[simp] theorem State.countBacklog_subs (s : State) (n : StreamNo) : (s.countBacklog n).subs = s.subs := by
  simp [State.countBacklog]
@[simp] theorem State.countBacklog_markNo (s : State) (n : StreamNo) : (s.countBacklog n).markNo = s.markNo := by
  simp [State.countBacklog]
@[simp] theorem State.countBacklog_markPending (s : State) (n : StreamNo) :
    (s.countBacklog n).markPending = s.markPending := by
  simp [State.countBacklog]
@[simp] theorem State.countBacklog_lastMark (s : State) (n : StreamNo) : (s.countBacklog n).lastMark = s.lastMark := by
  simp [State.countBacklog]
@[simp] theorem State.countBacklog_intervalTimer (s : State) (n : StreamNo) :
    (s.countBacklog n).intervalTimer = s.intervalTimer := by
  simp [State.countBacklog]
@[simp] theorem State.countBacklog_roster (s : State) (n : StreamNo) : (s.countBacklog n).roster = s.roster := by
  simp [State.countBacklog]
@[simp] theorem State.countBacklog_presenceTimer (s : State) (n : StreamNo) :
    (s.countBacklog n).presenceTimer = s.presenceTimer := by
  simp [State.countBacklog]
@[simp] theorem State.countBacklog_offers (s : State) (n : StreamNo) : (s.countBacklog n).offers = s.offers := by
  simp [State.countBacklog]
@[simp] theorem State.countBacklog_line (s : State) (n : StreamNo) : (s.countBacklog n).line = s.line := by
  simp [State.countBacklog]
@[simp] theorem State.countBacklog_streak (s : State) (n : StreamNo) : (s.countBacklog n).streak = s.streak := by
  simp [State.countBacklog]
@[simp] theorem State.countBacklog_listenTimer (s : State) (n : StreamNo) :
    (s.countBacklog n).listenTimer = s.listenTimer := by
  simp [State.countBacklog]
@[simp] theorem State.countBacklog_lineIdle (s : State) (n : StreamNo) : (s.countBacklog n).lineIdle = s.lineIdle := by
  simp [State.countBacklog]
@[simp] theorem State.countBacklog_assembling (s : State) (n : StreamNo) :
    (s.countBacklog n).assembling = s.assembling := by
  simp [State.countBacklog]
@[simp] theorem State.countBacklog_bits (s : State) (n : StreamNo) : (s.countBacklog n).bits = s.bits := by
  simp [State.countBacklog]
@[simp] theorem State.countBacklog_freeDraws (s : State) (n : StreamNo) :
    (s.countBacklog n).freeDraws = s.freeDraws := by
  simp [State.countBacklog]
@[simp] theorem State.countBacklog_pending (s : State) (n : StreamNo) : (s.countBacklog n).pending = s.pending := by
  simp [State.countBacklog]
@[simp] theorem State.countBacklog_wires (s : State) (n : StreamNo) : (s.countBacklog n).wires = s.wires := by
  simp [State.countBacklog]

end Sys2Proof.Machine
end

