-- ==== Sys2Proof/Laws/Access.lean ====
section
/-! SUPPORT. Reading after writing: streams, publications, subscriptions, roster entries and offers. -/

namespace Sys2Proof.Machine

set_option Elab.async false

open Sys2Proof

/-! ### Reads that see only their own field -/

/-- Two states with the same streams have the same stream records. -/
theorem State.stream_congr {s t : State} (h : s.streams = t.streams) (n : StreamNo) : s.stream n = t.stream n := by
  simp only [State.stream, h]

/-- Two states with the same streams have the same publications. -/
theorem State.pub_congr {s t : State} (h : s.streams = t.streams) (n : StreamNo) : s.pub n = t.pub n := by
  simp only [State.pub, State.stream_congr h]

/-- Two states with the same handles have the same subscriptions. -/
theorem State.sub_congr {s t : State} (h : s.subs = t.subs) (i : SubHandle) : s.sub i = t.sub i := by
  simp only [State.sub, h]

/-- Two states with the same roster have the same entries. -/
theorem State.peer_congr {s t : State} (h : s.roster = t.roster) (a : Addr) : s.peer a = t.peer a := by
  simp only [State.peer, h]

/-- Two states with the same offer list hold the same offers. -/
theorem State.hasOffer_congr {s t : State} (h : s.offers = t.offers) (i : OfferItem) : s.hasOffer i = t.hasOffer i := by
  simp only [State.hasOffer, h]

/-- Two states with the same image have the same own address. -/
theorem State.ownAddr_congr {s t : State} (h : s.config = t.config) : s.ownAddr = t.ownAddr := by
  simp only [State.ownAddr, h]

/-! ### Streams -/

/-- A stream number read after a write to it or to another. -/
theorem State.setStream_stream (s : State) (n m : StreamNo) (r : StreamRec) :
    (s.setStream n r).stream m = if m = n then r else s.stream m := by
  simp only [State.setStream, State.stream, Fin.getElem_fin, Vector.getElem_set, Fin.ext_iff, eq_comm]

/-- The stream number just written reads as written. -/
@[simp] theorem State.setStream_stream_self (s : State) (n : StreamNo) (r : StreamRec) :
    (s.setStream n r).stream n = r := by
  simp [State.setStream_stream]

/-- Writing one stream number leaves every other. -/
theorem State.setStream_stream_ne (s : State) {n m : StreamNo} (r : StreamRec) (h : m ≠ n) :
    (s.setStream n r).stream m = s.stream m := by
  simp [State.setStream_stream, h]

/-- A publication read after a publication is written. -/
theorem State.setPub_pub (s : State) (n m : StreamNo) (p : Option Pub) :
    (s.setPub n p).pub m = if m = n then p else s.pub m := by
  simp only [State.setPub, State.pub, State.setStream_stream]
  split <;> rfl

/-- The publication just written reads as written. -/
@[simp] theorem State.setPub_pub_self (s : State) (n : StreamNo) (p : Option Pub) : (s.setPub n p).pub n = p := by
  simp [State.setPub_pub]

/-- Writing the pending GONE range leaves every publication. -/
@[simp] theorem State.setGone_pub (s : State) (n m : StreamNo) (g : Option GoneRange) :
    (s.setGone n g).pub m = s.pub m := by
  simp only [State.setGone, State.pub, State.setStream_stream]
  split
  · next h => rw [h]
  · rfl

/-- Writing a publication leaves every pending GONE range and every counter. -/
theorem State.setPub_stream_gone (s : State) (n m : StreamNo) (p : Option Pub) :
    ((s.setPub n p).stream m).gone = (s.stream m).gone ∧ ((s.setPub n p).stream m).counter = (s.stream m).counter := by
  simp only [State.setPub, State.setStream_stream]
  split
  · next h => rw [h]; exact ⟨rfl, rfl⟩
  · exact ⟨rfl, rfl⟩

/-- A publication read after a change of one. -/
theorem State.modPub_pub (s : State) (n m : StreamNo) (f : Pub → Pub) :
    (s.modPub n f).pub m = if m = n then (s.pub m).map f else s.pub m := by
  unfold State.modPub
  split
  · next p h =>
    rw [State.setPub_pub]
    split
    · next hm => rw [hm, h]; rfl
    · rfl
  · next h =>
    split
    · next hm => rw [hm, h]; rfl
    · rfl

/-! ### Subscriptions -/

/-- A handle read after a write to it or to another. -/
theorem State.setSub_sub (s : State) (h i : SubHandle) (w : Option Sub) :
    (s.setSub h w).sub i = if i = h then w else s.sub i := by
  simp only [State.setSub, State.sub, Fin.getElem_fin, Vector.getElem_set, Fin.ext_iff, eq_comm]

/-- The handle just written reads as written. -/
@[simp] theorem State.setSub_sub_self (s : State) (h : SubHandle) (w : Option Sub) : (s.setSub h w).sub h = w := by
  simp [State.setSub_sub]

/-- Writing one handle leaves every other. -/
theorem State.setSub_sub_ne (s : State) {h i : SubHandle} (w : Option Sub) (hi : i ≠ h) :
    (s.setSub h w).sub i = s.sub i := by
  simp [State.setSub_sub, hi]

/-- A handle read after a change of one. -/
theorem State.modSub_sub (s : State) (h i : SubHandle) (f : Sub → Sub) :
    (s.modSub h f).sub i = if i = h then (s.sub i).map f else s.sub i := by
  unfold State.modSub
  split
  · next w hw =>
    rw [State.setSub_sub]
    split
    · next hm => rw [hm, hw]; rfl
    · rfl
  · next hw =>
    split
    · next hm => rw [hm, hw]; rfl
    · rfl

/-- What a machine's move does to the handle it belongs to, and to every other. -/
theorem State.moveRepair_sub (s : State) (h i : SubHandle) (x : RepairState) (t : RepairTimer) :
    (s.moveRepair h x t).sub i =
      if i = h then (s.sub i).map fun w => { w with repair := { w.repair with state := x, timer := t } }
      else s.sub i :=
  State.modSub_sub s h i _

/-- What replacing a machine does to the handle it belongs to, and to every other. -/
theorem State.setRepair_sub (s : State) (h i : SubHandle) (r : Repair) :
    (s.setRepair h r).sub i = if i = h then (s.sub i).map fun w => { w with repair := r } else s.sub i :=
  State.modSub_sub s h i _

/-! ### The roster -/

/-- Distinct addresses of the roster have distinct places. -/
theorem rosterPlace_inj {a b : Addr} {i : Fin 62} (ha : rosterPlace a = some i) (hb : rosterPlace b = some i) : a = b := by
  unfold rosterPlace at ha hb
  split at ha
  · split at hb
    · next h₁ h₂ =>
      simp only [Option.some.injEq] at ha hb
      have h := ha.trans hb.symm
      simp only [Fin.mk.injEq] at h
      exact BitVec.eq_of_toNat_eq (by omega)
    · cases hb
  · cases ha

/-- An address 1..62 has a place. -/
theorem rosterPlace_isSome {a : Addr} (h : 1 ≤ a.toNat ∧ a.toNat ≤ 62) : (rosterPlace a).isSome = true := by
  simp [rosterPlace, h]

/-- The entry just written reads as written. -/
theorem State.setPeer_peer_self (s : State) {a : Addr} (e : PeerEntry) (h : 1 ≤ a.toNat ∧ a.toNat ≤ 62) :
    (s.setPeer a e).peer a = e := by
  simp only [State.setPeer, State.peer, rosterPlace, h, and_self, dite_true, Fin.getElem_fin, Vector.getElem_set_self]

/-- Writing one entry leaves every other. -/
theorem State.setPeer_peer_ne (s : State) {a b : Addr} (e : PeerEntry) (h : b ≠ a) :
    (s.setPeer a e).peer b = s.peer b := by
  unfold State.setPeer
  split
  · next i hi =>
    unfold State.peer
    split
    · next j hj =>
      have hij : i ≠ j := fun hh => h (rosterPlace_inj hj (hh ▸ hi))
      simp only [Fin.getElem_fin]
      rw [Vector.getElem_set_ne]
      exact fun hh => hij (Fin.ext hh)
    · rfl
  · rfl

/-! ### Offers -/

/-- A resource is the same as itself. -/
@[simp] theorem OfferItem.sameResource_self (i : OfferItem) : i.sameResource i = true := by
  cases i <;> simp [OfferItem.sameResource]

/-- Being the same resource is symmetric. -/
theorem OfferItem.sameResource_comm (i j : OfferItem) : i.sameResource j = j.sameResource i := by
  cases i <;> cases j <;> simp [OfferItem.sameResource, eq_comm]

/-- R132: what admitting an offer does: nothing where the resource has an entry, else one new entry, last. -/
theorem State.addOffer_offers (s : State) (i : OfferItem) :
    (s.addOffer i).offers = if s.hasOffer i then s.offers else s.offers ++ [⟨i, 0, none⟩] := by
  unfold State.addOffer
  split <;> rfl

/-- R133: an entry is left by a withdrawal exactly when it is in flight or not of the kind withdrawn. -/
theorem State.mem_withdrawWhere (s : State) (f : OfferItem → Bool) (o : Offer) :
    o ∈ (s.withdrawWhere f).offers ↔ o ∈ s.offers ∧ (o.inFlight = true ∨ f o.item = false) := by
  simp [State.withdrawWhere]

end Sys2Proof.Machine
end

