-- ==== Sys2Proof/Laws/Frames.lean ====
section
/-! SUPPORT. What the shared operations of the two engines can touch: an operation on one subscription changes that
handle, the offer list and the notice queue; one on one publication changes that stream number, the free list, the offer
list and the notice queue. -/

namespace Sys2Proof.Machine

set_option Elab.async false

open Sys2Proof

/-! ### One subscription -/

/-- `t` is `s` but for the subscription on `h`, the offer list and the notice queue. -/
def OnlyHandle (h : SubHandle) (s t : State) : Prop :=
  t = { s with subs := t.subs, offers := t.offers, notices := t.notices } ∧ ∀ i : SubHandle, i ≠ h → t.sub i = s.sub i

theorem OnlyHandle.refl (h : SubHandle) (s : State) : OnlyHandle h s s := ⟨rfl, fun _ _ => rfl⟩

theorem OnlyHandle.trans {h : SubHandle} {s t u : State} (a : OnlyHandle h s t) (b : OnlyHandle h t u) :
    OnlyHandle h s u := by
  refine ⟨?_, fun i hi => (b.2 i hi).trans (a.2 i hi)⟩
  rw [b.1, a.1]

theorem OnlyHandle.ite {h : SubHandle} {s t u : State} {c : Prop} [Decidable c] (a : OnlyHandle h s t)
    (b : OnlyHandle h s u) : OnlyHandle h s (if c then t else u) := by
  split
  · exact a
  · exact b

/-- What an operation on one subscription leaves: every field but three. -/
theorem OnlyHandle.eq {h : SubHandle} {s t : State} (a : OnlyHandle h s t) :
    t = { s with subs := t.subs, offers := t.offers, notices := t.notices } := a.1

/-- An operation on one subscription leaves every other. -/
theorem OnlyHandle.other {h : SubHandle} {s t : State} (a : OnlyHandle h s t) {i : SubHandle} (hi : i ≠ h) :
    t.sub i = s.sub i := a.2 i hi

theorem OnlyHandle.post (h : SubHandle) (s : State) (k : NoticeKind) (o : NoticeObject) (d : Word16) :
    OnlyHandle h s (s.post k o d) := ⟨rfl, fun _ _ => rfl⟩

theorem OnlyHandle.withdrawWhere (h : SubHandle) (s : State) (f : OfferItem → Bool) :
    OnlyHandle h s (s.withdrawWhere f) := ⟨rfl, fun _ _ => rfl⟩

theorem OnlyHandle.withdrawAsk (h i : SubHandle) (s : State) : OnlyHandle h s (s.withdrawAsk i) := ⟨rfl, fun _ _ => rfl⟩

theorem OnlyHandle.setSub (h : SubHandle) (s : State) (w : Option Sub) : OnlyHandle h s (s.setSub h w) :=
  ⟨rfl, fun _ hi => State.setSub_sub_ne s w hi⟩

theorem OnlyHandle.modSub (h : SubHandle) (s : State) (f : Sub → Sub) : OnlyHandle h s (s.modSub h f) := by
  unfold State.modSub
  split
  · exact OnlyHandle.setSub h s _
  · exact OnlyHandle.refl h s

theorem OnlyHandle.addOffer (h : SubHandle) (s : State) (i : OfferItem) : OnlyHandle h s (s.addOffer i) := by
  unfold State.addOffer
  split
  · exact OnlyHandle.refl h s
  · exact ⟨rfl, fun _ _ => rfl⟩

theorem OnlyHandle.moveRepair (h : SubHandle) (s : State) (x : RepairState) (t : RepairTimer) :
    OnlyHandle h s (s.moveRepair h x t) := OnlyHandle.modSub h s _

theorem OnlyHandle.setRepair (h : SubHandle) (s : State) (r : Repair) : OnlyHandle h s (s.setRepair h r) :=
  OnlyHandle.modSub h s _

theorem OnlyHandle.clearAttempts (h : SubHandle) (s : State) : OnlyHandle h s (s.clearAttempts h) :=
  OnlyHandle.modSub h s _

theorem OnlyHandle.forgetHorizon (h : SubHandle) (s : State) : OnlyHandle h s (s.forgetHorizon h) :=
  OnlyHandle.modSub h s _

theorem OnlyHandle.repairByHole (h : SubHandle) (s : State) : OnlyHandle h s (s.repairByHole h) := by
  unfold State.repairByHole
  split
  · split
    · split <;> exact OnlyHandle.moveRepair h s _ _
    · exact OnlyHandle.moveRepair h s _ _
  · exact OnlyHandle.refl h s

theorem OnlyHandle.toldHole (h : SubHandle) (s : State) : OnlyHandle h s (s.toldHole h) := by
  unfold State.toldHole
  split
  · split
    · exact OnlyHandle.repairByHole h s
    · exact OnlyHandle.refl h s
  · exact OnlyHandle.refl h s

theorem OnlyHandle.toldAdvanced (h : SubHandle) (s : State) : OnlyHandle h s (s.toldAdvanced h) := by
  have c := OnlyHandle.clearAttempts h s
  unfold State.toldAdvanced
  split
  · split
    · split
      · exact c.trans ((OnlyHandle.withdrawAsk h h _).trans (OnlyHandle.moveRepair h _ _ _))
      · exact c
    · split
      · exact c.trans (OnlyHandle.moveRepair h _ _ _)
      · exact c.trans (OnlyHandle.moveRepair h _ _ _)
      · exact c.trans ((OnlyHandle.withdrawAsk h h _).trans (OnlyHandle.moveRepair h _ _ _))
      · exact c.trans (OnlyHandle.moveRepair h _ _ _)
      · exact c
      · exact c
  · exact OnlyHandle.refl h s

theorem OnlyHandle.toldStalled (h : SubHandle) (s : State) : OnlyHandle h s (s.toldStalled h) :=
  (OnlyHandle.withdrawAsk h h s).trans (OnlyHandle.setRepair h _ _)

theorem OnlyHandle.toldIdle (h : SubHandle) (s : State) : OnlyHandle h s (s.toldIdle h) :=
  (OnlyHandle.withdrawAsk h h s).trans (OnlyHandle.setRepair h _ _)

theorem OnlyHandle.toldResumed (h : SubHandle) (s : State) : OnlyHandle h s (s.toldResumed h) :=
  ((OnlyHandle.withdrawAsk h h s).trans (OnlyHandle.clearAttempts h _)).trans (OnlyHandle.repairByHole h _)

theorem OnlyHandle.toldResync (h : SubHandle) (s : State) : OnlyHandle h s (s.toldResync h) :=
  ((OnlyHandle.withdrawAsk h h s).trans (OnlyHandle.clearAttempts h _)).trans (OnlyHandle.repairByHole h _)

theorem OnlyHandle.parkRepair (h : SubHandle) (s : State) : OnlyHandle h s (s.parkRepair h) := by
  unfold State.parkRepair
  split
  · split
    · exact OnlyHandle.moveRepair h s _ _
    · exact (OnlyHandle.withdrawAsk h h s).trans (OnlyHandle.moveRepair h _ _ _)
    · exact OnlyHandle.moveRepair h s _ _
    all_goals exact OnlyHandle.refl h s
  · exact OnlyHandle.refl h s

theorem OnlyHandle.unparkRepair (h : SubHandle) (s : State) : OnlyHandle h s (s.unparkRepair h) := by
  unfold State.unparkRepair
  split
  · split
    · exact (OnlyHandle.clearAttempts h s).trans (OnlyHandle.repairByHole h _)
    · exact OnlyHandle.refl h s
  · exact OnlyHandle.refl h s

theorem OnlyHandle.suppress (h : SubHandle) (s : State) (a : AskBody) : OnlyHandle h s (s.suppress h a) := by
  unfold State.suppress
  split
  · split
    · split
      · exact OnlyHandle.moveRepair h s _ _
      · split
        · exact OnlyHandle.refl h s
        · exact (OnlyHandle.withdrawAsk h h s).trans (OnlyHandle.moveRepair h _ _ _)
      · exact OnlyHandle.moveRepair h s _ _
      all_goals exact OnlyHandle.refl h s
    · exact OnlyHandle.refl h s
  · exact OnlyHandle.refl h s

theorem OnlyHandle.askDelayExpires (h : SubHandle) (s : State) : OnlyHandle h s (s.askDelayExpires h) := by
  unfold State.askDelayExpires
  split
  · split
    · split
      · exact OnlyHandle.setRepair h s _
      · split
        · exact OnlyHandle.moveRepair h s _ _
        · exact (OnlyHandle.moveRepair h s _ _).trans (OnlyHandle.addOffer h _ _)
    · exact OnlyHandle.refl h s
  · exact OnlyHandle.refl h s

theorem OnlyHandle.askDone (h : SubHandle) (s : State) : OnlyHandle h s (s.askDone h) := by
  unfold State.askDone
  split
  · split
    · exact OnlyHandle.setRepair h s _
    · exact OnlyHandle.refl h s
  · exact OnlyHandle.refl h s

theorem OnlyHandle.endEvent (h : SubHandle) (s : State) (n : Nat) : OnlyHandle h s (s.endEvent h n) := by
  unfold State.endEvent
  split
  · exact OnlyHandle.post h s _ _ _
  · exact OnlyHandle.refl h s

/-- R56: an event of a subscription adds at most a notice to what it does. -/
theorem OnlyHandle.event (h : SubHandle) {s : State} {f : State → State} (hf : OnlyHandle h s (f s)) :
    OnlyHandle h s (s.event h f) := hf.trans (OnlyHandle.endEvent h _ _)

theorem OnlyHandle.giveUp (h : SubHandle) (s : State) (fill : Bool) : OnlyHandle h s (s.giveUp h fill) := by
  unfold State.giveUp
  split
  · split
    · extract_lets v moved t u
      have a : OnlyHandle h s u :=
        ((OnlyHandle.setSub h s _).trans (OnlyHandle.post h _ _ _ _)).trans (OnlyHandle.toldAdvanced h _)
      exact OnlyHandle.ite (a.trans (OnlyHandle.toldResumed h _)) a
    · exact OnlyHandle.refl h s
  · exact OnlyHandle.refl h s

theorem OnlyHandle.stallStep (h : SubHandle) (s : State) : OnlyHandle h s (s.stallStep h) := by
  unfold State.stallStep
  split
  · split
    · split
      · exact ((OnlyHandle.setSub h s _).trans (OnlyHandle.post h _ _ _ _)).trans (OnlyHandle.toldStalled h _)
      · exact OnlyHandle.refl h s
    · exact OnlyHandle.refl h s
  · exact OnlyHandle.refl h s

theorem OnlyHandle.abandon (h : SubHandle) (s : State) : OnlyHandle h s (s.abandon h) := by
  unfold State.abandon
  split
  · split
    · exact OnlyHandle.giveUp h s _
    · exact OnlyHandle.giveUp h s _
    · exact OnlyHandle.stallStep h s
  · exact OnlyHandle.refl h s

theorem OnlyHandle.abandonWhile (h : SubHandle) (go : Sub → Bool) {f : State → State}
    (hf : ∀ t, OnlyHandle h t (f t)) (n : Nat) (s : State) : OnlyHandle h s (s.abandonWhile h go f n) := by
  induction n generalizing s with
  | zero => exact OnlyHandle.refl h s
  | succ n ih =>
    unfold State.abandonWhile
    split
    · split
      · split
        · exact hf s
        · exact (hf s).trans (ih _)
      · exact OnlyHandle.refl h s
    · exact OnlyHandle.refl h s

theorem OnlyHandle.abandonWindow (h : SubHandle) (s : State) : OnlyHandle h s (s.abandonWindow h) := by
  unfold State.abandonWindow
  split
  · split
    · exact OnlyHandle.abandonWhile h _ (fun t => OnlyHandle.abandon h t) _ s
    · exact OnlyHandle.refl h s
  · exact OnlyHandle.refl h s

theorem OnlyHandle.placeRecord (h : SubHandle) (s : State) (r : Record) : OnlyHandle h s (s.placeRecord h r) := by
  unfold State.placeRecord
  split
  · split
    · extract_lets v moved t u x
      have a : OnlyHandle h s t := OnlyHandle.setSub h s _
      have b : OnlyHandle h s u := OnlyHandle.ite (a.trans (OnlyHandle.toldAdvanced h _)) a
      have c : OnlyHandle h s x := OnlyHandle.ite (b.trans (OnlyHandle.toldResumed h _)) b
      exact OnlyHandle.ite (c.trans (OnlyHandle.toldHole h _)) c
    · exact OnlyHandle.refl h s
  · exact OnlyHandle.refl h s

theorem OnlyHandle.resync (h : SubHandle) (s : State) (g : Gen) (n : Seq) (hz : Int) :
    OnlyHandle h s (s.resync h g n hz) :=
  ((OnlyHandle.modSub h s _).trans (OnlyHandle.post h _ _ _ _)).trans (OnlyHandle.toldResync h _)

theorem OnlyHandle.dataAt (h : SubHandle) (s : State) (r : Record) : OnlyHandle h s (s.dataAt h r) := by
  unfold State.dataAt
  split
  · split
    · exact OnlyHandle.setSub h s _
    · split
      · exact ((OnlyHandle.setSub h s _).trans (OnlyHandle.toldResync h _)).trans (OnlyHandle.placeRecord h _ r)
      · exact OnlyHandle.setSub h s _
    · split
      · exact OnlyHandle.placeRecord h s r
      · split
        · exact (OnlyHandle.resync h s _ _ _).trans (OnlyHandle.placeRecord h _ r)
        · exact OnlyHandle.setSub h s _
    · exact OnlyHandle.refl h s
  · exact OnlyHandle.refl h s

theorem OnlyHandle.dataArrives (h : SubHandle) (s : State) (r : Record) : OnlyHandle h s (s.dataArrives h r) :=
  OnlyHandle.event h (OnlyHandle.dataAt h s r)

theorem OnlyHandle.advertised (h : SubHandle) (s : State) (a : Advert) : OnlyHandle h s (s.advertised h a) := by
  unfold State.advertised
  split
  · dsimp only
    split
    · exact OnlyHandle.refl h s
    · exact (OnlyHandle.setSub h s _).trans (OnlyHandle.toldResync h _)
    · split
      · split
        · split
          · exact OnlyHandle.refl h s
          · split
            · exact (OnlyHandle.setSub h s _).trans (OnlyHandle.toldHole h _)
            · exact OnlyHandle.setSub h s _
        · exact OnlyHandle.refl h s
      · split
        · exact OnlyHandle.resync h s _ _ _
        · exact OnlyHandle.refl h s
    · exact OnlyHandle.refl h s
  · exact OnlyHandle.refl h s

theorem OnlyHandle.notListed (h : SubHandle) (s : State) : OnlyHandle h s (s.notListed h) := by
  unfold State.notListed
  split
  · split
    · exact ((OnlyHandle.abandonWindow h s).trans (OnlyHandle.forgetHorizon h _)).trans (OnlyHandle.toldAdvanced h _)
    · exact OnlyHandle.refl h s
  · exact OnlyHandle.refl h s

theorem OnlyHandle.restarted (h : SubHandle) (s : State) : OnlyHandle h s (s.restarted h) := by
  unfold State.restarted
  split
  · split
    · exact OnlyHandle.refl h s
    · exact (OnlyHandle.setSub h s _).trans (OnlyHandle.toldIdle h _)
  · exact OnlyHandle.refl h s

theorem OnlyHandle.goneHoles (h : SubHandle) (s : State) : OnlyHandle h s (s.goneHoles h) := by
  unfold State.goneHoles
  split
  · split
    · split
      · split
        · exact OnlyHandle.post h s _ _ _
        · exact OnlyHandle.refl h s
      · exact OnlyHandle.refl h s
      · exact (OnlyHandle.abandonWindow h s).trans (OnlyHandle.forgetHorizon h _)
    · exact OnlyHandle.refl h s
  · exact OnlyHandle.refl h s

theorem OnlyHandle.originGone (h : SubHandle) (s : State) : OnlyHandle h s (s.originGone h) := by
  unfold State.originGone
  split
  · split
    · exact OnlyHandle.refl h s
    · exact (((OnlyHandle.goneHoles h s).trans (OnlyHandle.modSub h _ _)).trans (OnlyHandle.toldIdle h _)).trans
        (OnlyHandle.post h _ _ _ _)
  · exact OnlyHandle.refl h s

theorem OnlyHandle.originBack (h : SubHandle) (s : State) : OnlyHandle h s (s.originBack h) := by
  unfold State.originBack
  split
  · split
    · split
      · exact (OnlyHandle.setSub h s _).trans (OnlyHandle.toldResumed h _)
      · exact OnlyHandle.setSub h s _
    · exact OnlyHandle.refl h s
  · exact OnlyHandle.refl h s

theorem OnlyHandle.listSignal (l : List Advert) (h : SubHandle) (s : State) :
    OnlyHandle h s (State.listSignal l s h) := by
  unfold State.listSignal
  split
  · split
    · exact OnlyHandle.advertised h s _
    · exact OnlyHandle.notListed h s
  · exact OnlyHandle.refl h s

theorem OnlyHandle.goneArrives (h : SubHandle) (s : State) (g : GoneBody) : OnlyHandle h s (s.goneArrives h g) := by
  unfold State.goneArrives
  split
  · split
    · split
      · exact OnlyHandle.abandonWhile h _ (fun t => OnlyHandle.event h (OnlyHandle.abandon h t)) _ s
      · exact OnlyHandle.refl h s
    · exact OnlyHandle.refl h s
  · exact OnlyHandle.refl h s

theorem OnlyHandle.answerWaitExpires (h : SubHandle) (s : State) : OnlyHandle h s (s.answerWaitExpires h) := by
  unfold State.answerWaitExpires
  split
  · split
    · split
      · exact OnlyHandle.setRepair h s _
      · dsimp only
        split
        · exact OnlyHandle.moveRepair h s _ _
        · exact (OnlyHandle.moveRepair h s _ _).trans (OnlyHandle.event h (OnlyHandle.abandon h _))
    · exact OnlyHandle.refl h s
  · exact OnlyHandle.refl h s

/-! ### Every subscription -/

/-- `t` is `s` but for the subscriptions, the offer list and the notice queue. -/
def OnlySubs (s t : State) : Prop := t = { s with subs := t.subs, offers := t.offers, notices := t.notices }

theorem OnlySubs.refl (s : State) : OnlySubs s s := rfl

theorem OnlySubs.trans {s t u : State} (a : OnlySubs s t) (b : OnlySubs t u) : OnlySubs s u := by
  unfold OnlySubs at *
  rw [b, a]

theorem OnlyHandle.onlySubs {h : SubHandle} {s t : State} (a : OnlyHandle h s t) : OnlySubs s t := a.1

/-- Running an operation on one handle after another touches the subscriptions alone. -/
theorem OnlySubs.foldl {f : State → SubHandle → State} (hf : ∀ s h, OnlySubs s (f s h)) (l : List SubHandle) (s : State) :
    OnlySubs s (l.foldl f s) := by
  induction l generalizing s with
  | nil => exact OnlySubs.refl s
  | cons h l ih => exact (hf s h).trans (ih _)

/-- R129: a signal touches the subscriptions alone. -/
theorem OnlySubs.signal (a : Addr) {f : State → SubHandle → State} (hf : ∀ s h, OnlyHandle h s (f s h)) (s : State) :
    OnlySubs s (s.signal a f) :=
  OnlySubs.foldl (fun t h => (OnlyHandle.event h (hf t h)).onlySubs) _ s

/-- R83: parking the machines touches the subscriptions and their ASK entries alone. -/
theorem OnlySubs.parkRepairs (s : State) : OnlySubs s s.parkRepairs :=
  OnlySubs.foldl (fun t h => (OnlyHandle.parkRepair h t).onlySubs) _ s

/-- R83: unparking the machines touches the subscriptions alone. -/
theorem OnlySubs.unparkRepairs (s : State) : OnlySubs s s.unparkRepairs :=
  OnlySubs.foldl (fun t h => (OnlyHandle.unparkRepair h t).onlySubs) _ s

/-! ### One publication -/

/-- `t` is `s` but for the record of stream number `n`, the free list, the offer list and the notice queue. -/
def OnlyStream (n : StreamNo) (s t : State) : Prop :=
  t = { s with streams := t.streams, freeSlots := t.freeSlots, offers := t.offers, notices := t.notices }
    ∧ ∀ m : StreamNo, m ≠ n → t.stream m = s.stream m

theorem OnlyStream.refl (n : StreamNo) (s : State) : OnlyStream n s s := ⟨rfl, fun _ _ => rfl⟩

theorem OnlyStream.trans {n : StreamNo} {s t u : State} (a : OnlyStream n s t) (b : OnlyStream n t u) :
    OnlyStream n s u := by
  refine ⟨?_, fun i hi => (b.2 i hi).trans (a.2 i hi)⟩
  rw [b.1, a.1]

theorem OnlyStream.post (n : StreamNo) (s : State) (k : NoticeKind) (o : NoticeObject) (d : Word16) :
    OnlyStream n s (s.post k o d) := ⟨rfl, fun _ _ => rfl⟩

theorem OnlyStream.withdrawWhere (n : StreamNo) (s : State) (f : OfferItem → Bool) :
    OnlyStream n s (s.withdrawWhere f) := ⟨rfl, fun _ _ => rfl⟩

theorem OnlyStream.addOffer (n : StreamNo) (s : State) (i : OfferItem) : OnlyStream n s (s.addOffer i) := by
  unfold State.addOffer
  split
  · exact OnlyStream.refl n s
  · exact ⟨rfl, fun _ _ => rfl⟩

theorem OnlyStream.setStream (n : StreamNo) (s : State) (r : StreamRec) : OnlyStream n s (s.setStream n r) :=
  ⟨rfl, fun _ hm => State.setStream_stream_ne s r hm⟩

theorem OnlyStream.setPub (n : StreamNo) (s : State) (p : Option Pub) : OnlyStream n s (s.setPub n p) :=
  OnlyStream.setStream n s _

theorem OnlyStream.setGone (n : StreamNo) (s : State) (g : Option GoneRange) : OnlyStream n s (s.setGone n g) :=
  OnlyStream.setStream n s _

theorem OnlyStream.modPub (n : StreamNo) (s : State) (f : Pub → Pub) : OnlyStream n s (s.modPub n f) := by
  unfold State.modPub
  split
  · exact OnlyStream.setPub n s _
  · exact OnlyStream.refl n s

theorem OnlyStream.seal (n : StreamNo) (s : State) (c : SealContent) : OnlyStream n s (s.seal n c) := by
  unfold State.seal
  split
  · dsimp only
    split
    · exact (OnlyStream.setPub n s _).trans (OnlyStream.addOffer n _ _)
    · exact OnlyStream.setPub n s _
  · exact OnlyStream.refl n s

theorem OnlyStream.overrun (n : StreamNo) (s : State) (k : Nat) : OnlyStream n s (s.overrun n k) := by
  unfold State.overrun
  split
  · exact (OnlyStream.setPub n s _).trans (OnlyStream.post n _ _ _ _)
  · exact OnlyStream.refl n s

theorem OnlyStream.captureSeal (n : StreamNo) (s : State) (c : SealContent) : OnlyStream n s (s.captureSeal n c) := by
  unfold State.captureSeal
  split
  · split
    · exact OnlyStream.overrun n s _
    · exact OnlyStream.seal n s c
  · exact OnlyStream.refl n s

theorem OnlyStream.sealBuilder (n : StreamNo) (s : State) (b : Builder) (short : Bool) :
    OnlyStream n s (s.sealBuilder n b short) :=
  (OnlyStream.captureSeal n s _).trans (OnlyStream.modPub n _ _)

theorem OnlyStream.frameAt (offset : Word16) (bits : BitVec 128) (n : StreamNo) (s : State) :
    OnlyStream n s (State.frameAt offset bits s n) := by
  unfold State.frameAt
  split
  · split
    · dsimp only
      split
      · exact OnlyStream.sealBuilder n s _ _
      · exact OnlyStream.modPub n s _
    · exact OnlyStream.refl n s
  · exact OnlyStream.refl n s

theorem OnlyStream.shortSeal (n : StreamNo) (s : State) : OnlyStream n s (s.shortSeal n) := by
  unfold State.shortSeal
  split
  · split
    · split
      · exact OnlyStream.sealBuilder n s _ _
      · exact OnlyStream.refl n s
    · exact OnlyStream.refl n s
  · exact OnlyStream.refl n s

theorem OnlyStream.withdrawData (n : StreamNo) (s : State) : OnlyStream n s (s.withdrawData n) :=
  (OnlyStream.withdrawWhere n s _).trans (OnlyStream.modPub n _ _)

theorem OnlyStream.removePub (n : StreamNo) (s : State) : OnlyStream n s (s.removePub n) := by
  unfold State.removePub
  split
  · have a := (OnlyStream.withdrawWhere n s fun i => i.isDataOf n).trans (OnlyStream.setPub n _ none)
    exact ⟨rfl, fun m hm => a.2 m hm⟩
  · exact OnlyStream.refl n s

theorem OnlyStream.finishClosing (n : StreamNo) (s : State) (p : Pub) : OnlyStream n s (s.finishClosing n p) :=
  (OnlyStream.removePub n s).trans (OnlyStream.post n _ _ _ _)

theorem OnlyStream.dataDone (n : StreamNo) (s : State) (i : Nat) (x : Bool) : OnlyStream n s (s.dataDone n i x) := by
  unfold State.dataDone
  split
  · split
    · exact OnlyStream.finishClosing n s _
    · exact OnlyStream.setPub n s _
  · exact OnlyStream.refl n s

theorem OnlyStream.dataKept (n : StreamNo) (s : State) (i : Nat) : OnlyStream n s (s.dataKept n i) := by
  unfold State.dataKept
  split
  · split
    · exact OnlyStream.finishClosing n s _
    · split
      · exact OnlyStream.refl n s
      · exact (OnlyStream.withdrawWhere n s _).trans (OnlyStream.setPub n _ _)
  · exact OnlyStream.withdrawWhere n s _

theorem OnlyStream.addGone (n : StreamNo) (s : State) (g : GoneRange) : OnlyStream n s (s.addGone n g) := by
  unfold State.addGone
  split
  · exact OnlyStream.setGone n s _
  · exact (OnlyStream.setGone n s _).trans (OnlyStream.addOffer n _ _)

theorem OnlyStream.addGoneRun (n : StreamNo) (s : State) (g : Gen) (f : Seq) (k : Nat) :
    OnlyStream n s (s.addGoneRun n g f k) := by
  unfold State.addGoneRun
  split
  · exact OnlyStream.refl n s
  · exact OnlyStream.addGone n s _

theorem OnlyStream.resendOne (n : StreamNo) (s : State) (x : Seq) : OnlyStream n s (s.resendOne n x) := by
  unfold State.resendOne
  split
  · split
    · split
      · exact (OnlyStream.setPub n s _).trans (OnlyStream.addOffer n _ _)
      · exact OnlyStream.refl n s
    · exact OnlyStream.refl n s
  · exact OnlyStream.refl n s

/-- R86: an ASK at the publisher touches its stream number alone. -/
theorem OnlyStream.answerAsk (s : State) (a : AskBody) : OnlyStream a.stream s (s.answerAsk a) := by
  have run : ∀ (l : List Seq) (t : State), OnlyStream a.stream s t →
      OnlyStream a.stream s (l.foldl (fun t x => t.resendOne a.stream x) t) := by
    intro l
    induction l with
    | nil => exact fun t h => h
    | cons x l ih => exact fun t h => ih _ (h.trans (OnlyStream.resendOne _ _ _))
  unfold State.answerAsk
  split
  · dsimp only
    split
    · split
      · exact run _ _ (OnlyStream.addGoneRun _ _ _ _ _)
      · exact OnlyStream.addGoneRun _ _ _ _ _
    · exact OnlyStream.addGoneRun _ _ _ _ _
  · exact OnlyStream.refl _ s

end Sys2Proof.Machine
end

