-- ==== Sys2Proof/Laws/Ops.lean ====
section
/-! SUPPORT. One lemma for each shared operation that says once everything it can do: the free list, the notice queue,
the host port, the delivery run, the seal, the line's changes, the outcomes and a reception. -/

namespace Sys2Proof.Machine

set_option Elab.async false

open Sys2Proof

/-! ### The free list (R7) -/

/-- R7: a returned handle joins the free list, and no other changes. -/
theorem insertSlot_perm (x : Nat) (l : List Nat) : (insertSlot x l).Perm (x :: l) := by
  induction l with
  | nil => exact List.Perm.refl _
  | cons y ys ih =>
    unfold insertSlot
    split
    · exact List.Perm.refl _
    · exact (ih.cons y).trans (List.Perm.swap x y ys)

/-- R7: the free list stays ascending. -/
theorem insertSlot_sorted (x : Nat) {l : List Nat} (h : l.Pairwise (· ≤ ·)) : (insertSlot x l).Pairwise (· ≤ ·) := by
  induction l with
  | nil => exact List.pairwise_singleton _ _
  | cons y ys ih =>
    have hy := List.pairwise_cons.mp h
    unfold insertSlot
    split
    · next hxy =>
      refine List.pairwise_cons.mpr ⟨fun z hz => ?_, h⟩
      rcases List.mem_cons.mp hz with rfl | hz
      · exact hxy
      · exact hxy.trans (hy.1 z hz)
    · refine List.pairwise_cons.mpr ⟨fun z hz => ?_, ih hy.2⟩
      rcases List.mem_cons.mp ((insertSlot_perm x ys).mem_iff.mp hz) with rfl | hz
      · omega
      · exact hy.1 z hz

/-- R7: a ring or window joins the free list whole. -/
theorem returnSlots_perm (hs l : List Nat) : (returnSlots hs l).Perm (hs ++ l) := by
  induction hs generalizing l with
  | nil => exact List.Perm.refl _
  | cons x xs ih =>
    refine (ih (insertSlot x l)).trans ?_
    refine ((insertSlot_perm x l).append_left xs).trans ?_
    exact List.perm_middle

/-- R7: the free list stays ascending as a ring or window joins it. -/
theorem returnSlots_sorted (hs : List Nat) {l : List Nat} (h : l.Pairwise (· ≤ ·)) :
    (returnSlots hs l).Pairwise (· ≤ ·) := by
  induction hs generalizing l with
  | nil => exact h
  | cons x xs ih => exact ih (insertSlot_sorted x h)

/-- R7, R8: the free list grows by the size of the ring or window. -/
theorem returnSlots_length (hs l : List Nat) : (returnSlots hs l).length = hs.length + l.length := by
  rw [(returnSlots_perm hs l).length_eq, List.length_append]

/-! ### The notice queue (R174, R175) -/

/-- R174, R175: the four cases of a posted notice. -/
theorem postNotice_cases (q : List Notice) (k : NoticeKind) (o : NoticeObject) (d : Word16) :
    ((∃ n ∈ q, n.kind = k ∧ n.object = o)
        ∧ postNotice q k o d = q.map fun n => if n.kind = k ∧ n.object = o then n.bump d else n)
      ∨ ((∀ n ∈ q, ¬(n.kind = k ∧ n.object = o))
        ∧ ((overflowInForce q = true
            ∧ postNotice q k o d = q.map fun n =>
              if n.kind = .noticeOverflow ∧ n.object = .none then n.bump (k.code.setWidth 16) else n)
          ∨ (overflowInForce q = false ∧ q.length ≤ 30 ∧ postNotice q k o d = q ++ [⟨k, o, 1, d⟩])
          ∨ (overflowInForce q = false ∧ 30 < q.length
            ∧ postNotice q k o d = q ++ [⟨.noticeOverflow, .none, 1, k.code.setWidth 16⟩]))) := by
  unfold postNotice
  by_cases h : q.any (fun n => n.isOf k o) = true
  · rw [if_pos h]
    left
    obtain ⟨n, hn, hk⟩ := List.any_eq_true.mp h
    exact ⟨⟨n, hn, by simpa [Notice.isOf] using hk⟩, by simp [Notice.isOf]⟩
  · rw [if_neg h]
    right
    refine ⟨fun n hn hk => h (List.any_eq_true.mpr ⟨n, hn, by simpa [Notice.isOf] using hk⟩), ?_⟩
    by_cases ho : overflowInForce q = true
    · exact .inl ⟨ho, by rw [if_pos ho]; simp [Notice.isOf]⟩
    · rw [if_neg ho]
      right
      rw [Bool.not_eq_true] at ho
      by_cases hl : q.length ≤ 30
      · exact .inl ⟨ho, hl, by rw [if_pos hl]⟩
      · exact .inr ⟨ho, by omega, by rw [if_neg hl]⟩

/-! ### The host port (R163 to R165) -/

/-- R163 to R165: a command that is not being collected changes nothing; before CONFIGURE it is answered STATE; else its
effect and its response are those of its body. -/
theorem State.command_cases (s : State) (run : State → State × Response) :
    (s.collecting = false ∧ s.command run = s)
      ∨ (s.collecting = true ∧ s.configured = false ∧ s.command run = s.respond (.refuse .state))
      ∨ (s.collecting = true ∧ s.configured = true ∧ s.command run = (run s).1.respond (run s).2) := by
  unfold State.command
  by_cases h : s.collecting = true
  · rw [if_pos h]
    by_cases c : s.configured = true
    · exact .inr (.inr ⟨h, c, by rw [if_pos c]⟩)
    · rw [Bool.not_eq_true] at c
      exact .inr (.inl ⟨h, c, by simp [c]⟩)
  · rw [Bool.not_eq_true] at h
    exact .inl ⟨h, by simp [h]⟩

/-- R163: a command a configured part collects. -/
theorem State.command_taken {s : State} (h : s.takes) (run : State → State × Response) :
    s.command run = (run s).1.respond (run s).2 := by
  rcases s.command_cases run with ⟨a, _⟩ | ⟨_, b, _⟩ | ⟨_, _, c⟩
  · rw [h.1] at a; cases a
  · rw [State.configured, h.2] at b; cases b
  · exact c

/-! ### A step -/

/-- What a step can answer: what the command at the front answers; with none waiting, what comes next at the wires; with
neither, the state itself. -/
theorem step_cases {s t : State} (h : step s = .next t) :
    (∃ c rest, s.pending = c :: rest ∧ exec c { s with pending := rest } = .next t)
      ∨ (∃ w rest, s.pending = [] ∧ s.wires = w :: rest ∧ tick w { s with wires := rest } = .next t)
      ∨ (s.pending = [] ∧ s.wires = [] ∧ t = s) := by
  unfold step at h
  split at h
  · next c rest hp => exact .inl ⟨c, rest, hp, h⟩
  · next hp =>
    split at h
    · next w rest hw => exact .inr (.inl ⟨w, rest, hp, hw, h⟩)
    · next hw => exact .inr (.inr ⟨hp, hw, by injection h with h; exact h.symm⟩)

/-! ### The delivery run (R54) -/

/-- R54: one turn of the delivery run: the slot at p is HELD and becomes READY, and the window moves on. -/
theorem Sub.deliverOne_some {w v : Sub} (h : w.deliverOne = some v) :
    ∃ r, w.at w.p = .held r
      ∧ v = { w with
          slots := w.slots.modify w.p fun y => { y with state := .ready r }
          point := w.point.map Point.succ
          p := (w.p + 1) % w.size
          b := w.b + 1
          h := lowerHorizon w.h
          delivered := satInc w.delivered } := by
  unfold Sub.deliverOne at h
  split at h
  · next r hr =>
    refine ⟨r, hr, ?_⟩
    injection h with h
    rw [← h]
    simp [Sub.advance, Sub.put, Sub.size]
  · cases h

/-- R54: the delivery run goes on exactly while the slot at p is HELD. -/
theorem Sub.deliverOne_none_iff (w : Sub) : w.deliverOne = none ↔ (w.at w.p).isHeld = false := by
  unfold Sub.deliverOne
  split <;> simp_all [SlotState.isHeld]

/-- Changing the state of a slot leaves every handle. -/
@[simp] theorem Sub.put_handles (w : Sub) (i : Nat) (x : SlotState) : (w.put i x).handles = w.handles := by
  simp only [Sub.put, Sub.handles]
  apply List.ext_getElem <;> simp [List.getElem_modify]
  intro j hj
  split <;> rfl

/-- R54: the delivery run changes neither the handles nor what the open fixed. -/
theorem Sub.deliver_fixed (n : Nat) (w : Sub) :
    (w.deliver n).handles = w.handles ∧ (w.deliver n).origin = w.origin ∧ (w.deliver n).stream = w.stream
      ∧ (w.deliver n).policy = w.policy ∧ (w.deliver n).start = w.start ∧ (w.deliver n).state = w.state
      ∧ (w.deliver n).repair = w.repair ∧ (w.deliver n).lost = w.lost ∧ (w.deliver n).discarded = w.discarded := by
  induction n generalizing w with
  | zero => exact ⟨rfl, rfl, rfl, rfl, rfl, rfl, rfl, rfl, rfl⟩
  | succ n ih =>
    unfold Sub.deliver
    split
    · next v hv =>
      obtain ⟨r, _, rfl⟩ := Sub.deliverOne_some hv
      refine (ih _).imp (fun h => h.trans ?_) id
      exact Sub.put_handles w w.p (.ready r)
    · exact ⟨rfl, rfl, rfl, rfl, rfl, rfl, rfl, rfl, rfl⟩

/-! ### The tail (R59) -/

/-- R59: trimming the tail lowers b alone, by no more than the fuel. -/
theorem Sub.trim_eq (n : Nat) (w : Sub) : ∃ j, j ≤ n ∧ j ≤ w.b ∧ w.trim n = { w with b := w.b - j } := by
  induction n generalizing w with
  | zero => exact ⟨0, Nat.le_refl 0, Nat.zero_le _, rfl⟩
  | succ n ih =>
    unfold Sub.trim
    split
    · next h =>
      obtain ⟨j, hn, hb, e⟩ := ih { w with b := w.b - 1 }
      refine ⟨j + 1, by omega, by dsimp only at hb; omega, ?_⟩
      rw [e]
      simp only [Sub.mk.injEq, true_and, and_true]
      omega
    · exact ⟨0, Nat.zero_le _, Nat.zero_le _, rfl⟩

/-! ### The seal (R20, R21) -/

/-- R20, R21: a seal: the record in the target position, L, the head and the sealed count; in ACTIVE a fresh entry. -/
theorem State.seal_eq {s : State} {n : StreamNo} {p : Pub} (h : s.pub n = some p) (c : SealContent) :
    s.seal n c =
      if s.line = .active then (s.setPub n (some (p.sealed s.line (p.sealRecord s.ownAddr n c)))).addOffer (.fresh n p.target)
      else s.setPub n (some (p.sealed s.line (p.sealRecord s.ownAddr n c))) := by
  unfold State.seal
  rw [h]
  rfl

/-- R20, R22: a capture seal proceeds, or is a backlog overrun. -/
theorem State.captureSeal_eq {s : State} {n : StreamNo} {p : Pub} (h : s.pub n = some p) (c : SealContent) :
    s.captureSeal n c = if p.backlogged then s.overrun n c.frames else s.seal n c := by
  unfold State.captureSeal
  rw [h]

/-! ### The line -/

/-- R146: what leaving ACTIVE does is done exactly when the line was ACTIVE. -/
theorem State.moveLine_eq (s : State) (l : LineState) :
    s.moveLine l = if s.line = .active then ({ s with line := l } : State).leavingActive else { s with line := l } := rfl

/-- R135, R156: what a start of a parcel can do: nothing, or one entry of the list goes in flight with its content. -/
theorem State.startParcel_cases (s : State) :
    s.startParcel = s
      ∨ ∃ o p, s.mayStart = true ∧ s.selected = some o ∧ s.compose o.item = some p
        ∧ s.startParcel =
          { s with
            offers := s.offers.map fun x => if x.item = o.item then { x with flight := some p } else x
            lineIdle := false
            bits := LineBits.reset } := by
  unfold State.startParcel
  split
  · next hm =>
    split
    · next o ho =>
      split
      · next p hp => exact .inr ⟨o, p, hm, ho, hp, rfl⟩
      · exact .inl rfl
    · exact .inl rfl
  · exact .inl rfl

/-- R138: an outcome SENT: nothing without an entry in flight; else the entry leaves the list and its owner is told. -/
theorem State.outcomeSent_cases (s : State) :
    (s.flying = none ∧ s.outcomeSent = s)
      ∨ ∃ o, s.flying = some o
        ∧ s.outcomeSent =
          ({ s with streak := 0, lineIdle := false, assembling := false, bits := s.bitsSent } : State).removeFlying.ownerDone
            o true := by
  unfold State.outcomeSent
  split
  · next o ho => exact .inr ⟨o, ho, rfl⟩
  · next ho => exact .inl ⟨ho, rfl⟩

/-- R139: an outcome LOST: nothing without an entry in flight; else the entry stays and its owner is told. -/
theorem State.outcomeLost_cases (s : State) :
    (s.flying = none ∧ s.outcomeLost = s)
      ∨ ∃ o, s.flying = some o ∧ s.outcomeLost = (s.fallBack.landFlying o.failures).ownerKept o := by
  unfold State.outcomeLost
  split
  · next o ho => exact .inr ⟨o, ho, rfl⟩
  · next ho => exact .inl ⟨ho, rfl⟩

/-! ### A reception (R159 to R161) -/

/-- R159 to R161: what the end of a received parcel can do. -/
theorem State.receive_cases (s : State) (p : Parcel) :
    (s.canReceive = false ∧ s.receive p = s)
      ∨ (s.canReceive = true ∧ p.passes = false ∧ s.receive p = s.endReception)
      ∨ (s.canReceive = true ∧ p.passes = true ∧ p.header.origin = s.ownAddr
        ∧ s.receive p = s.endReception.addressConflict p.body.kindCode)
      ∨ (s.canReceive = true ∧ p.passes = true ∧ p.header.origin ≠ s.ownAddr
        ∧ s.receive p =
          (s.endReception.presence p.header.origin p.body.kindCode).dispatchBody p.header.origin p.body) := by
  unfold State.receive
  by_cases c : s.canReceive = true
  · rw [if_pos c]
    by_cases hp : p.passes = true
    · rw [if_pos hp]
      unfold State.handOn
      by_cases ho : p.header.origin = s.ownAddr
      · exact .inr (.inr (.inl ⟨c, hp, ho, by rw [if_pos (show p.header.origin = s.endReception.ownAddr from ho)]⟩))
      · exact .inr (.inr (.inr ⟨c, hp, ho, by rw [if_neg (show ¬p.header.origin = s.endReception.ownAddr from ho)]⟩))
    · rw [Bool.not_eq_true] at hp
      exact .inr (.inl ⟨c, hp, by simp [hp]⟩)
  · rw [Bool.not_eq_true] at c
    exact .inl ⟨c, by simp [c]⟩

/-- What a reception leaves of the line interface is what the words of the statements say. -/
theorem State.endReception_eq_heard (s : State) : s.endReception = s.heard := rfl

/-- R161: every reception goes through the one shared operation. -/
theorem exec_receptionOf (s : State) (p : Parcel) : exec (receptionOf p) s = .next (s.receive p) := by
  rcases p with ⟨hd, b⟩
  cases b <;> rfl

/-- R116: the presence step on a PRESENT entry whose timer runs changes nothing. -/
theorem State.presence_of_present {s : State} {a : Addr} (h : 1 ≤ a.toNat ∧ a.toNat ≤ 62)
    (hp : (s.peer a).state = .present) (ht : (s.peer a).timerOn = true) (k : Byte) : s.presence a k = s := by
  have e : s.setPeer a (s.peer a) = s := by
    unfold State.setPeer State.peer
    simp only [rosterPlace, h, and_self, dite_true, Fin.getElem_fin, Vector.set_getElem_self]
  unfold State.presence
  rcases hx : s.peer a with ⟨x1, x2, x3, x4, x5, x6⟩
  rw [hx] at hp ht e
  cases hp
  cases ht
  exact e

end Sys2Proof.Machine
end

