-- ==== Sys2Proof/Laws/PerInstr.lean ====
section
/-! SUPPORT. One lemma for each step: the byte form of a host command has as many argument bytes as the table of codes
gives its code (R163, R180); the other steps have no byte form. -/

namespace Sys2Proof.Laws

set_option Elab.async false

open Sys2Proof

/-- R163, R180: how many argument bytes follow a code byte; PUT has its stream, its count, and, for a count of 1..32,
two bytes for each sample. A code that names no command has none. -/
def argumentBytes (code : Byte) (args : List Byte) : Nat :=
  if code = 0x01 then 16
  else if code = 0x10 then 8
  else if code = 0x12 then
    match args with
    | _ :: count :: _ => if 1 ≤ count.toNat ∧ count.toNat ≤ 32 then 2 + 2 * count.toNat else 2
    | _ => 2
  else if code = 0x20 then 5
  else if code = 0x23 then 3
  else if code ∈ ([0x11, 0x13, 0x21, 0x22, 0x24, 0x25, 0x26, 0x30] : List Byte) then 1
  else 0

/-- The family: a well-formed host command's byte form is its code byte and the argument bytes that code has. -/
def CommandBytes.Statement (i : Instr) : Prop :=
  ∀ bytes : List Byte, i.wellFormed = true → encodeCommand i = some bytes →
    ∃ (code : Byte) (args : List Byte), bytes = code :: args ∧ args.length = argumentBytes code args

/-- A step without a byte form meets the family. -/
theorem CommandBytes.of_none {i : Instr} (h : encodeCommand i = none) : CommandBytes.Statement i := by
  intro bytes _ e
  rw [h] at e
  cases e

/-- A command whose code fixes its argument bytes meets the family. -/
theorem CommandBytes.of_some {i : Instr} {code : Byte} {args : List Byte} (h : encodeCommand i = some (code :: args))
    (l : args.length = argumentBytes code args) : CommandBytes.Statement i := by
  intro bytes _ e
  rw [h] at e
  cases e
  exact ⟨code, args, rfl, l⟩

/-- The sample bytes of a PUT are two for each sample. -/
theorem sampleBytes_length (l : List Sample) : (l.flatMap Machine.be16).length = 2 * l.length := by
  induction l with
  | nil => rfl
  | cons x l ih =>
    rw [List.flatMap_cons, List.length_append, ih, List.length_cons]
    simp only [Machine.be16, List.length_cons, List.length_nil]
    omega

theorem CommandBytes.configure (image : Image) : CommandBytes.Statement (.configure image) :=
  CommandBytes.of_some rfl rfl

theorem CommandBytes.restart : CommandBytes.Statement (.restart) :=
  CommandBytes.of_some rfl rfl

theorem CommandBytes.status : CommandBytes.Statement (.status) :=
  CommandBytes.of_some rfl rfl

theorem CommandBytes.join : CommandBytes.Statement (.join) :=
  CommandBytes.of_some rfl rfl

theorem CommandBytes.leave : CommandBytes.Statement (.leave) :=
  CommandBytes.of_some rfl rfl

theorem CommandBytes.mark : CommandBytes.Statement (.mark) :=
  CommandBytes.of_some rfl rfl

theorem CommandBytes.nextNotice : CommandBytes.Statement (.nextNotice) :=
  CommandBytes.of_some rfl rfl

theorem CommandBytes.openPub (stream : Byte) (source : Byte) (size : Byte) (start : Byte) (mask : Byte) (k : Byte) (d : Word16) :
    CommandBytes.Statement (.openPub stream source size start mask k d) :=
  CommandBytes.of_some rfl rfl

theorem CommandBytes.closePub (stream : Byte) : CommandBytes.Statement (.closePub stream) :=
  CommandBytes.of_some rfl rfl

theorem CommandBytes.put (stream : Byte) (count : Byte) (samples : List Sample) :
    CommandBytes.Statement (.put stream count samples) := by
  intro bytes w e
  cases e
  refine ⟨0x12, stream :: count :: samples.flatMap Machine.be16, rfl, ?_⟩
  have e : argumentBytes 0x12 (stream :: count :: samples.flatMap Machine.be16) =
      if 1 ≤ count.toNat ∧ count.toNat ≤ 32 then 2 + 2 * count.toNat else 2 := rfl
  rw [e, List.length_cons, List.length_cons, sampleBytes_length]
  simp only [Instr.wellFormed, putShape] at w
  split at w
  · next h => rw [if_pos h]; simp only [decide_eq_true_eq] at w; omega
  · next h => rw [if_neg h, List.isEmpty_iff.mp w]; rfl

theorem CommandBytes.pubStatus (stream : Byte) : CommandBytes.Statement (.pubStatus stream) :=
  CommandBytes.of_some rfl rfl

theorem CommandBytes.openSub (origin : Byte) (stream : Byte) (size : Byte) (policy : Byte) (start : Byte) :
    CommandBytes.Statement (.openSub origin stream size policy start) :=
  CommandBytes.of_some rfl rfl

theorem CommandBytes.closeSub (handle : Byte) : CommandBytes.Statement (.closeSub handle) :=
  CommandBytes.of_some rfl rfl

theorem CommandBytes.take (handle : Byte) : CommandBytes.Statement (.take handle) :=
  CommandBytes.of_some rfl rfl

theorem CommandBytes.read (slot : Byte) (first : Byte) (count : Byte) :
    CommandBytes.Statement (.read slot first count) :=
  CommandBytes.of_some rfl rfl

theorem CommandBytes.release (slot : Byte) : CommandBytes.Statement (.release slot) :=
  CommandBytes.of_some rfl rfl

theorem CommandBytes.resume (handle : Byte) : CommandBytes.Statement (.resume handle) :=
  CommandBytes.of_some rfl rfl

theorem CommandBytes.subStatus (handle : Byte) : CommandBytes.Statement (.subStatus handle) :=
  CommandBytes.of_some rfl rfl

theorem CommandBytes.roster (address : Byte) : CommandBytes.Statement (.roster address) :=
  CommandBytes.of_some rfl rfl

theorem CommandBytes.unknownCode (code : Byte) : CommandBytes.Statement (.unknownCode code) := by
  intro bytes w e
  cases e
  refine ⟨code, [], rfl, ?_⟩
  revert w
  revert code
  decide +kernel

theorem CommandBytes.transactionStart : CommandBytes.Statement (.transactionStart) :=
  CommandBytes.of_none rfl

theorem CommandBytes.transactionCut : CommandBytes.Statement (.transactionCut) :=
  CommandBytes.of_none rfl

theorem CommandBytes.powerUp : CommandBytes.Statement (.powerUp) :=
  CommandBytes.of_none rfl

theorem CommandBytes.resetnLow : CommandBytes.Statement (.resetnLow) :=
  CommandBytes.of_none rfl

theorem CommandBytes.resetEnd (hold : ResetHold) : CommandBytes.Statement (.resetEnd hold) :=
  CommandBytes.of_none rfl

theorem CommandBytes.frameStart : CommandBytes.Statement (.frameStart) :=
  CommandBytes.of_none rfl

theorem CommandBytes.frameArrival (bits : BitVec 128) : CommandBytes.Statement (.frameArrival bits) :=
  CommandBytes.of_none rfl

theorem CommandBytes.markinEdge (edge : Edge) : CommandBytes.Statement (.markinEdge edge) :=
  CommandBytes.of_none rfl

theorem CommandBytes.askDelayExpiry (handle : SubHandle) : CommandBytes.Statement (.askDelayExpiry handle) :=
  CommandBytes.of_none rfl

theorem CommandBytes.answerWaitExpiry (handle : SubHandle) : CommandBytes.Statement (.answerWaitExpiry handle) :=
  CommandBytes.of_none rfl

theorem CommandBytes.intervalTimerExpiry : CommandBytes.Statement (.intervalTimerExpiry) :=
  CommandBytes.of_none rfl

theorem CommandBytes.presenceTimerExpiry : CommandBytes.Statement (.presenceTimerExpiry) :=
  CommandBytes.of_none rfl

theorem CommandBytes.silenceTimerSilent (address : Addr) : CommandBytes.Statement (.silenceTimerSilent address) :=
  CommandBytes.of_none rfl

theorem CommandBytes.silenceTimerGone (address : Addr) : CommandBytes.Statement (.silenceTimerGone address) :=
  CommandBytes.of_none rfl

theorem CommandBytes.listenSpanExpiry : CommandBytes.Statement (.listenSpanExpiry) :=
  CommandBytes.of_none rfl

theorem CommandBytes.parcelStart : CommandBytes.Statement (.parcelStart) :=
  CommandBytes.of_none rfl

theorem CommandBytes.outcomeSent : CommandBytes.Statement (.outcomeSent) :=
  CommandBytes.of_none rfl

theorem CommandBytes.outcomeLost : CommandBytes.Statement (.outcomeLost) :=
  CommandBytes.of_none rfl

theorem CommandBytes.outcomeFailed : CommandBytes.Statement (.outcomeFailed) :=
  CommandBytes.of_none rfl

theorem CommandBytes.helloAccepted (header : Header) (hello : HelloBody) :
    CommandBytes.Statement (.helloAccepted header hello) :=
  CommandBytes.of_none rfl

theorem CommandBytes.markAccepted (header : Header) (number : MarkNo) :
    CommandBytes.Statement (.markAccepted header number) :=
  CommandBytes.of_none rfl

theorem CommandBytes.dataAccepted (header : Header) (data : DataBody) :
    CommandBytes.Statement (.dataAccepted header data) :=
  CommandBytes.of_none rfl

theorem CommandBytes.askAccepted (header : Header) (ask : AskBody) : CommandBytes.Statement (.askAccepted header ask) :=
  CommandBytes.of_none rfl

theorem CommandBytes.goneAccepted (header : Header) (gone : GoneBody) :
    CommandBytes.Statement (.goneAccepted header gone) :=
  CommandBytes.of_none rfl

theorem CommandBytes.brokenParcel : CommandBytes.Statement (.brokenParcel) :=
  CommandBytes.of_none rfl

theorem CommandBytes.discardedParcel (bytes : List Byte) : CommandBytes.Statement (.discardedParcel bytes) :=
  CommandBytes.of_none rfl

theorem CommandBytes.lineIdle : CommandBytes.Statement (.lineIdle) :=
  CommandBytes.of_none rfl

theorem CommandBytes.supplyDrop : CommandBytes.Statement (.supplyDrop) :=
  CommandBytes.of_none rfl

theorem CommandBytes.lastResponseByte : CommandBytes.Statement (.lastResponseByte) :=
  CommandBytes.of_none rfl

end Sys2Proof.Laws
end

