-- ==== Sys2Proof/Laws/Wires.lean ====
section
/-! SUPPORT. What happens at the wires: one lemma that says everything a tick can do to the state, for invariants, and
the small lemmas of its parts. -/

namespace Sys2Proof.Machine

set_option Elab.async false

open Sys2Proof

/-! ### The parts -/

/-- R163, R165: a completed command byte is answered STATE, is the last of a command, or is kept. -/
theorem takeBytes_cases (s : State) (bytes : List Byte) :
    takeBytes s bytes = .next (({ s with spi := Spi.reset } : State).respond (.refuse .state))
      ∨ (∃ c, decodeCommand bytes = some c ∧ takeBytes s bytes = exec c { s with spi := Spi.reset })
      ∨ ∃ x, takeBytes s bytes = .next { s with spi := x } := by
  unfold takeBytes
  dsimp only
  split
  · exact .inl rfl
  · split
    · next c hc => exact .inr (.inl ⟨c, hc, rfl⟩)
    · exact .inr (.inr ⟨_, rfl⟩)

/-- R33: the bit sampled last is the least significant, and those before it move up by one place. -/
theorem shiftIn_getLsbD (v : BitVec 128) (b : Bool) {j : Nat} (hj : j < 128) :
    (shiftIn v b).getLsbD j = if j = 0 then b else v.getLsbD (j - 1) := by
  rcases j with _ | j
  · simp [shiftIn]
  · simp [shiftIn, hj, BitVec.getLsbD_eq_getElem (show j < 128 by omega)]

/-- R33: the bits shifted in, the last one the least significant. -/
theorem shiftIn_foldl_getLsbD (l : List Bool) (v : BitVec 128) {j : Nat} (hj : j < 128) :
    (l.foldl shiftIn v).getLsbD j =
      if j < l.length then l.getD (l.length - 1 - j) false else v.getLsbD (j - l.length) := by
  induction l generalizing v with
  | nil => simp
  | cons b l ih =>
    rw [List.foldl_cons, ih, List.length_cons]
    rcases Nat.lt_trichotomy j l.length with h | h | h
    · rw [if_pos h, if_pos (by omega), show l.length + 1 - 1 - j = (l.length - 1 - j) + 1 by omega, List.getD_cons_succ]
    · rw [if_neg (by omega), if_pos (by omega), shiftIn_getLsbD v b (by omega), if_pos (by omega)]
      simp [h]
    · rw [if_neg (by omega), if_neg (by omega), shiftIn_getLsbD v b (by omega), if_neg (by omega), Nat.sub_sub]

/-- R33: the first bit sampled is the most significant of a frame. -/
theorem frameOf_getMsbD {l : List Bool} (h : l.length = 128) {i : Nat} (hi : i < 128) :
    (frameOf l).getMsbD i = l.getD i false := by
  rw [BitVec.getMsbD, frameOf, shiftIn_foldl_getLsbD l 0 (by omega), if_pos (by omega), h,
    show 128 - 1 - (128 - 1 - i) = i by omega]
  simp [hi]

/-- R33: a sampled bit is ignored, kept, or the 128th of a frame. -/
theorem State.frameBit_cases (s : State) (x : Bool) :
    s.frameBit x = .next s
      ∨ (s.frameInProgress = true ∧ s.frameBits.length < 127
        ∧ s.frameBit x = .next { s with frameBits := s.frameBits ++ [x] })
      ∨ (s.frameInProgress = true ∧ 127 ≤ s.frameBits.length
        ∧ s.frameBit x = exec (.frameArrival (frameOf (s.frameBits ++ [x]))) s) := by
  unfold State.frameBit
  split
  · next hp =>
    dsimp only
    rw [List.length_append, List.length_singleton]
    split
    · next hl => exact .inr (.inl ⟨hp, by omega, rfl⟩)
    · next hl => exact .inr (.inr ⟨hp, by omega, rfl⟩)
  · exact .inl rfl

/-- R153, R159: reading along with the own parcel changes the bits alone. -/
theorem State.readAlong_fst (s : State) (x : Bool) : ∃ b, (s.readAlong x).1 = { s with bits := b } := by
  unfold State.readAlong
  split
  · exact ⟨_, rfl⟩
  · split
    · exact ⟨_, rfl⟩
    · exact ⟨s.bits, rfl⟩

/-! ### A tick -/

/-- What a parcel being assembled can do to the state as it ends. -/
theorem State.assembled_induction {P : State → Prop} (hexec : ∀ c s t, P s → exec c s = .next t → P t) {s : State}
    (h : P s) (a : Assembly) : P (s.assembled a) := by
  unfold State.assembled
  split
  · exact h
  · exact hexec .brokenParcel s _ h rfl
  · next bytes => exact hexec (.discardedParcel bytes) s _ h rfl

/-- Everything a tick can do: it runs meanings of rows, keeps bits of the port and of the line, the level of FSYNC and
the bits of a frame in progress, fewer than 128, begins the assembly of a parcel on an idle line, and answers STATE at a
code byte. What each of these keeps, every tick keeps. -/
theorem tick_induction {P : State → Prop} (hexec : ∀ c s t, P s → exec c s = .next t → P t)
    (hspi : ∀ s x, P s → P { s with spi := x }) (hbits : ∀ s b, P s → P { s with bits := b })
    (hstart : ∀ s, P s → s.lineIdle = true → P { s with lineIdle := false, assembling := true })
    (hrefuse : ∀ s, P s → P (s.respond (.refuse .state)))
    (hfsync : ∀ s x, P s → P { s with fsyncHigh := x })
    (hframe : ∀ s x, P s → s.frameInProgress = true → s.frameBits.length < 127 →
      P { s with frameBits := s.frameBits ++ [x] }) {w : Wire} {s t : State} (h : P s)
    (ht : tick w s = .next t) : P t := by
  cases w with
  | scsFall => exact hexec .transactionStart s t h ht
  | scsRise => exact hexec .transactionCut s t h ht
  | sckRise sdi =>
    change sckRises s sdi = .next t at ht
    unfold sckRises at ht
    split at ht
    · split at ht
      · dsimp only at ht
        split at ht
        · injection ht with ht
          exact ht ▸ hspi _ _ h
        · rcases takeBytes_cases s (s.spi.bytes ++ [bitsByte (s.spi.bits ++ [sdi])]) with e | ⟨c, _, e⟩ | ⟨x, e⟩
          · rw [e] at ht
            injection ht with ht
            exact ht ▸ hrefuse _ (hspi _ _ h)
          · rw [e] at ht
            exact hexec c _ _ (hspi _ _ h) ht
          · rw [e] at ht
            injection ht with ht
            exact ht ▸ hspi _ _ h
      · split at ht
        · split at ht
          · exact hexec _ _ _ h ht
          · injection ht with ht
            exact ht ▸ h
        · injection ht with ht
          exact ht ▸ h
    · injection ht with ht
      exact ht ▸ h
  | sckFall =>
    change Host.Outcome.next s.sckFalls = .next t at ht
    injection ht with ht
    rw [← ht]
    unfold State.sckFalls
    split
    · exact hspi _ _ h
    · exact h
  | fclkRise fsync fdat =>
    change fclkRises s fsync fdat = .next t at ht
    unfold fclkRises at ht
    split at ht
    · injection ht with ht
      exact ht ▸ h
    · split at ht
      · exact hexec .frameStart s t h ht
      · have h1 := hfsync s fsync h
        generalize ({ s with fsyncHigh := fsync } : State) = u at ht h1
        rcases u.frameBit_cases fdat with e | ⟨hp, hl, e⟩ | ⟨_, _, e⟩
        · rw [e] at ht
          injection ht with ht
          exact ht ▸ h1
        · rw [e] at ht
          injection ht with ht
          exact ht ▸ hframe u fdat h1 hp hl
        · rw [e] at ht
          exact hexec _ u t h1 ht
  | bitTime lrx =>
    change Host.Outcome.next (s.bitTime lrx) = .next t at ht
    injection ht with ht
    rw [← ht]
    have h0 : P s.startParcel := hexec .parcelStart s _ h rfl
    unfold State.bitTime
    dsimp only
    generalize s.startParcel = u at h0
    split
    · next o _ =>
      unfold State.driveBit
      obtain ⟨b, e⟩ := u.readAlong_fst lrx
      have h1 : P (u.readAlong lrx).1 := e ▸ hbits _ _ h0
      rcases hr : u.readAlong lrx with ⟨v, a⟩
      rw [hr] at h1
      dsimp only at h1 ⊢
      split
      · split
        · exact hexec .outcomeSent _ _ (hbits _ _ h1) rfl
        · exact hbits _ _ h1
      · split
        · exact State.assembled_induction hexec (hexec .outcomeLost _ _ h1 rfl) a
        · split
          · exact hexec .lineIdle _ _ (hexec .outcomeFailed _ _ h1 rfl) rfl
          · exact State.assembled_induction hexec (hexec .outcomeFailed _ _ h1 rfl) a
    · split
      · unfold State.readBit
        split
        · next hi =>
          split
          · exact h0
          · exact hbits _ ⟨0, u.bits.driven, some Rx.start, u.bits.left⟩ (hstart _ h0 hi)
        · split
          · exact State.assembled_induction hexec (hbits _ _ h0) _
          · split
            · exact hexec .lineIdle _ _ h0 rfl
            · exact hbits _ _ h0
      · exact h0

/-- What a step can do, for an invariant that does not speak of the queues: the meaning of its row, or a tick. -/
theorem step_induction {P : State → Prop} (hexec : ∀ c s t, P s → exec c s = .next t → P t)
    (htick : ∀ w s t, P s → tick w s = .next t → P t) (hpending : ∀ s l, P s → P { s with pending := l })
    (hwires : ∀ s l, P s → P { s with wires := l }) {s t : State} (h : P s) (ht : step s = .next t) : P t := by
  rcases step_cases ht with ⟨c, rest, _, e⟩ | ⟨w, rest, _, _, e⟩ | ⟨_, _, e⟩
  · exact hexec c _ _ (hpending s rest h) e
  · exact htick w _ _ (hwires s rest h) e
  · exact e ▸ h

end Sys2Proof.Machine
end

