-- ==== Sys2Proof/Tests/Slice0.lean ====
section
/-! SUPPORT. Tests: ill-formed steps that `WellFormed` refuses, small steps whose results the manual gives, and, for
each statement with hypotheses, a state and operands that meet them, clause by clause. -/

namespace Sys2Proof.Tests

set_option Elab.async false

open Sys2Proof Sys2Proof.Machine

/-! ### Small states -/

/-- The image of station 9: presence interval 200 ms, ask delay 2.45 ms, answer wait 5 ms, 3 ask attempts, pin edge
rising, mark interval 50 ms. -/
def image : Image := ⟨9, 0x0A01, 5, 3, 20, 20, 5, 5, 3, 1, 50⟩

/-- The entry of a peer that is PRESENT. -/
def heardEntry : PeerEntry := { PeerEntry.unknown with state := .present, timerOn := true }

/-- Station 9 in a line state, with peer 3 PRESENT. -/
def station (l : LineState) : State :=
  { State.reset with
    config := some image
    line := l
    roster := (State.reset.roster.set 8 { PeerEntry.unknown with state := .self }).set 2 heardEntry
    intervalTimer := if l = .active then .running 50000 else .stopped
    presenceTimer := if l = .active then .running 200000 else .stopped }

/-- The host is sending a command. -/
def host (s : State) : State := { s with scsLow := true, txn := .collecting }

/-- The line is idle. -/
def idle (s : State) : State := { s with lineIdle := true }

/-- A record that station 9 sealed on stream 1. -/
def sealedRecord (q : Seq) : Record := ⟨9, 1, 1, q, 0, 0, 0, 0, false, false, true, false, [7]⟩

/-- A HOST publication with sequence 0 SENT and sequence 1 QUEUED. -/
def hostPub : Pub where
  state := .running
  source := .host
  start := .immediate
  mask := 0
  k := 0
  d := 0
  gen := 1
  head := some ⟨1, 1⟩
  ring := [⟨0, .sent (sealedRecord 0)⟩, ⟨1, .queued (sealedRecord 1)⟩]
  sealedCount := 2
  resendCount := 0
  overrunFrames := 0
  backlogCount := 0
  builder := none

/-- A CAPTURE publication of channels 0 and 1, k = 2, d = 1, nothing sealed, as its open leaves it. -/
def capturePub : Pub where
  state := .running
  source := .capture
  start := .immediate
  mask := 3
  k := 2
  d := 1
  gen := 1
  head := none
  ring := [⟨0, .empty⟩, ⟨1, .empty⟩]
  sealedCount := 0
  resendCount := 0
  overrunFrames := 0
  backlogCount := 0
  builder := some ⟨0, 0, [], none⟩

/-- The state with a publication on stream 1. -/
def withPub (s : State) (p : Pub) : State :=
  { s with streams := s.streams.set 1 ⟨1, none, some p⟩, freeSlots := s.freeSlots.drop p.size }

/-- A record of stream 2 that station 3 sent. -/
def peerRecord (q : Seq) : Record := ⟨3, 2, 1, q, 0, 0, 0, 0, false, false, true, false, [5, 6]⟩

/-- A subscription to (3, 2) with S = 4, as an advertisement with L = 6 leaves it: N = 7. -/
def sub0 : Sub where
  origin := 3
  stream := 2
  slots := [⟨2, .free⟩, ⟨3, .free⟩, ⟨4, .free⟩, ⟨5, .free⟩]
  policy := .fill
  start := .live
  state := .running
  point := some ⟨1, 7⟩
  p := 0
  b := 0
  h := -1
  repair := ⟨.idle, 0, .stopped⟩
  delivered := 0
  lost := 0
  discarded := 0

/-- The state with a subscription on handle 0. -/
def withSub (s : State) (w : Sub) : State :=
  { s with subs := s.subs.set 0 (some w), freeSlots := s.freeSlots.drop w.size }

/-- Station 9 in a line state with `hostPub` and `sub0`. -/
def busy (l : LineState) : State := withSub (withPub (station l) hostPub) sub0

/-- `sub0` with 8 HELD behind the hole at 7, its machine in DELAY. -/
def holed : Sub :=
  { sub0 with
    slots := [⟨2, .free⟩, ⟨3, .held (peerRecord 8)⟩, ⟨4, .free⟩, ⟨5, .free⟩]
    h := 1
    repair := ⟨.delay, 0, .askDelay 2450⟩ }

/-- `sub0` with 7 taken and 8 ready: b = 2. -/
def drained : Sub :=
  { sub0 with
    slots := [⟨2, .taken (peerRecord 7)⟩, ⟨3, .ready (peerRecord 8)⟩, ⟨4, .free⟩, ⟨5, .free⟩]
    point := some ⟨1, 9⟩
    p := 2
    b := 2
    delivered := 2 }

/-- `sub0` full: b = S, all delivered. -/
def fullSub : Sub :=
  { sub0 with
    slots := [⟨2, .ready (peerRecord 7)⟩, ⟨3, .ready (peerRecord 8)⟩, ⟨4, .ready (peerRecord 9)⟩,
      ⟨5, .ready (peerRecord 10)⟩]
    point := some ⟨1, 11⟩
    p := 0
    b := 4 }

/-- The entry of the QUEUED position of `hostPub`. -/
def queuedOffer : Offer := ⟨.fresh 1 1, 0, none⟩

/-- The parcel of that entry. -/
def queuedParcel : Parcel :=
  ⟨⟨2, 9, 9⟩, .data ⟨false, false, true, 1, 1, 1, 0, 0, 0, 0, [7]⟩⟩

/-- `busy` with its entry. -/
def offering (l : LineState) : State := { busy l with offers := [queuedOffer] }

/-- A header of station 3. -/
def from3 : Header := ⟨1, 3, 3⟩

/-- DATA of (3, 2), generation 1, as a HOST record. -/
def data3 (q : Seq) : DataBody := ⟨false, false, true, 2, 1, q, 0, 0, 0, 0, [5, 6]⟩

/-- One entry, in flight with a parcel. -/
def flying (i : OfferItem) (failures : Nat) (b : Body) : Offer := ⟨i, failures, some ⟨⟨0, 9, 9⟩, b⟩⟩

/-- The state that what happens at a wire leaves. -/
def tickOf (w : Wire) (s : State) : State :=
  match tick w s with
  | .next t => t
  | _ => s

/-- An OFFLINE station that collects a command, some bits of its code byte read. -/
def collected (bits : List Bool) : State := { host (station .offline) with spi := ⟨bits, [], 0, false⟩ }

/-- The QUEUED position's parcel is on the line, with some of its bits driven. -/
def driving (driven : Nat) : State :=
  { offering .active with offers := [{ queuedOffer with flight := some queuedParcel }], bits := ⟨0, driven, none, false⟩ }

/-- LISTENING again after LEAVE and JOIN, the join HELLO of before still on the line. -/
def rejoined (failures : Nat) : State :=
  { station .listening with
    offers := [flying (.hello .join) failures (.hello ⟨0x0A01, 5, 0, 20, false, []⟩)]
    bits := ⟨0, 0, none, true⟩ }

/-! ### Ill-formed steps are refused -/

theorem test_wf_put : (Instr.put 1 3 [7]).wellFormed = false := by decide
theorem test_wf_put_no_samples : (Instr.put 1 33 [7]).wellFormed = false := by decide
theorem test_wf_unknownCode : (Instr.unknownCode 0x10).wellFormed = false := by decide
theorem test_wf_silenceTimerSilent : (Instr.silenceTimerSilent 63).wellFormed = false := by decide
theorem test_wf_silenceTimerGone : (Instr.silenceTimerGone 0).wellFormed = false := by decide
theorem test_wf_helloAccepted :
    (Instr.helloAccepted from3 ⟨1, 1, 0, 20, false, [⟨2, 1, some (0, 16)⟩]⟩).wellFormed = false := by decide
theorem test_wf_markAccepted : (Instr.markAccepted ⟨0, 0, 63⟩ 41).wellFormed = false := by decide
theorem test_wf_dataAccepted : (Instr.dataAccepted from3 { data3 7 with short := true }).wellFormed = false := by decide
theorem test_wf_askAccepted : (Instr.askAccepted from3 ⟨3, 2, 1, 7, 17⟩).wellFormed = false := by decide
theorem test_wf_goneAccepted : (Instr.goneAccepted from3 ⟨2, 1, 8, 7⟩).wellFormed = false := by decide
theorem test_wf_discardedParcel :
    (Instr.discardedParcel (Parcel.mk from3 (.mark 41)).withCrc).wellFormed = false := by decide +kernel

/-! ### Byte forms written out from the tables of the formats chapter -/

/-- OPEN_PUB stream 1, CAPTURE, R 4, ON_MARK, mask 0x0F, k 4, d 256. -/
theorem test_decode_openPub :
    decodeCommand [0x10, 0x01, 0x00, 0x04, 0x01, 0x0F, 0x04, 0x01, 0x00] = some (.openPub 1 0 4 1 0x0F 4 256) := by
  decide +kernel
theorem test_decode_put : decodeCommand [0x12, 0x02, 0x01, 0xAB, 0xCD] = some (.put 2 1 [0xABCD]) := by decide +kernel
theorem test_decode_read : decodeCommand [0x23, 0xFF, 0x00, 0x20] = some (.read 255 0 32) := by decide +kernel
theorem test_decode_unknown : decodeCommand [0x00] = some (.unknownCode 0) := by decide +kernel
theorem test_decode_cut : decodeCommand [0x11] = none := by decide +kernel
/-- R163, R165: whatever follows the last argument byte is not part of the command. -/
theorem test_decode_extra : decodeCommand [0x02, 0xFF] = some .restart := by decide +kernel
/-- R180: the code bytes of RESTART, LEAVE and MARK. -/
theorem test_table_words :
    decodeTableWord 8 0x02 = some .restart ∧ decodeTableWord 8 0x05 = some .leave ∧ decodeTableWord 8 0x06 = some .mark
      ∧ decodeTableWord 16 0x0511 = some (.closePub 5) ∧ decodeTableWord 8 0x08 = some (.unknownCode 8)
      ∧ decodeTableWord 0 0 = none := by decide +kernel
/-- A MARK from station 5, class 0, rank 45, number 41: byte 0 is 0x2D, byte 1 is 5 × 4. -/
theorem test_mark_bytes : (Parcel.mk ⟨0, 45, 5⟩ (.mark 41)).bytes = [0x2D, 0x14, 0x20, 0x02, 0x00, 0x29] := by
  decide +kernel
/-- The CRC of the nine ASCII digits with initial value 0xFFFF is the known check value of this polynomial. -/
theorem test_crc : crc16 [0x31, 0x32, 0x33, 0x34, 0x35, 0x36, 0x37, 0x38, 0x39] = 0x29B1 := by decide +kernel

/-! ### One step each, with results the manual gives -/

/-- 1.4: a window of 4 takes the lowest four free slots. -/
theorem test_openSub : ((host (station .offline)).after (.openSub 3 2 4 0 0)).freeSlots = (List.range 256).drop 4 := by
  decide +kernel
/-- R49: the slots return in ascending order. -/
theorem test_closeSub : ((host (busy .offline)).after (.closeSub 0)).freeSlots = (List.range 256).drop 2 := by
  decide +kernel
/-- R12, R20: the target of the third seal of a ring of 2 is position 0, and it is evicted. -/
theorem test_put : (((host (offering .active)).after (.put 1 1 [9])).pub 1).bind Pub.oldest = some 1 := by decide +kernel
/-- R26: a PUT to a publication that does not exist. -/
theorem test_put_none : ((host (offering .active)).after (.put 2 1 [9])).txn = .responding [0x15] := by decide +kernel
/-- R15: nothing is in flight, so the close is answered "closed". -/
theorem test_closePub : ((host (offering .active)).after (.closePub 1)).txn = .responding [0x00, 0x00] := by
  decide +kernel
/-- R13: the first generation is 1. -/
theorem test_openPub : ((host (station .active)).after (.openPub 1 1 2 0 0 0 0)).txn = .responding [0x00, 0x01] := by
  decide +kernel
/-- R28: 32 bytes. -/
theorem test_pubStatus : ((host (busy .active)).after (.pubStatus 1)).txn =
    .responding [0, 2, 1, 0, 0, 0, 0, 0, 0, 1, 2, 0, 0, 0, 0, 0, 1, 0, 1, 0, 0, 0, 1, 1, 0, 0, 2, 0, 0, 0, 0, 0, 0] := by
  decide +kernel
/-- R57, R181: the header of the oldest record not yet taken. -/
theorem test_take : ((host (withSub (station .active) drained)).after (.take 0)).txn =
    .responding [0x00, 3, 3, 2, 1, 0, 8, 0, 0, 0, 0, 0, 0, 2, 2] := by decide +kernel
/-- R58: the second sample. -/
theorem test_read : ((host (withSub (station .active) drained)).after (.read 2 1 1)).txn = .responding [0x00, 0, 6] := by
  decide +kernel
/-- 12.3, step 9: releasing the tail lowers b. -/
theorem test_release :
    (((host (withSub (station .active) drained)).after (.release 2)).sub 0).map Sub.b = some 1 := by decide +kernel
/-- R66: RESUME outside STALLED. -/
theorem test_resume : ((host (busy .active)).after (.resume 0)).txn = .responding [0x11] := by decide +kernel
/-- R61, R181: h = -1 is reported as 0xFFFF. -/
theorem test_subStatus : ((host (busy .active)).after (.subStatus 0)).txn =
    .responding [0, 3, 2, 4, 0, 0, 1, 1, 1, 0, 7, 0, 0, 255, 255, 4, 0, 0, 0, 0, 0, 0, 0, 0, 0, 0, 0, 0, 0] := by
  decide +kernel
/-- R172: a free count of 250 and one open record of each sort. -/
theorem test_status : ((host (busy .active)).after .status).txn =
    .responding [0, 5, 3, 0, 1, 0, 0, 0, 0, 0, 0, 0, 0, 0, 250, 0, 0, 1, 1] := by decide +kernel
/-- R168: an address of 63 is out of range. -/
theorem test_configure : ((host State.reset).after (.configure { image with address := 63 })).txn = .responding [0x10] := by
  decide +kernel
/-- R171: the start cause. -/
theorem test_restart : ((host (busy .active)).after .restart).startCause = .command := by decide +kernel
/-- R147. -/
theorem test_join : ((host (station .offline)).after .join).listenTimer = .running 600000 := by decide +kernel
/-- R150: the code of OFFLINE. -/
theorem test_leave : ((host (station .listening)).after .leave).txn = .responding [0x00, 0x01] := by decide +kernel
/-- R100: a second trigger is absorbed. -/
theorem test_mark : ((host { station .active with markPending := true, offers := [freshOffer .mark] }).after .mark).txn =
    .responding [0x00, 0x01] := by decide +kernel
/-- R176: the record of a MARK_ADOPTED. -/
theorem test_nextNotice :
    ((host { station .active with notices := [⟨.markAdopted, .none, 2, 41⟩] }).after .nextNotice).txn =
      .responding [0x00, 0x20, 0, 2, 0, 41] := by decide +kernel
/-- R127: SELF with the image's identifiers. -/
theorem test_roster : ((host (station .offline)).after (.roster 9)).txn =
    .responding [0, 4, 7, 0, 0, 10, 1, 0, 5, 20, 0, 0, 0] := by decide +kernel
/-- R165. -/
theorem test_unknownCode : ((host (station .offline)).after (.unknownCode 0xFF)).txn = .responding [0x1F] := by
  decide +kernel
/-- R162. -/
theorem test_transactionStart : ((station .offline).after .transactionStart).txn = .collecting := by decide +kernel
/-- R166. -/
theorem test_transactionCut : ((host (station .offline)).after .transactionCut).txn = .idle := by decide +kernel
/-- R162. -/
theorem test_lastResponseByte : (((station .offline).answers [0x10]).after .lastResponseByte).txn = .done := by
  decide +kernel
/-- R169: held by both, the part leaves reset when RESETN rises, and the cause is POWER. -/
theorem test_resetEnd :
    ((((State.reset.after .powerUp).after .resetnLow).after (.resetEnd .supply)).after (.resetEnd .pin)).startCause =
      .power := by decide +kernel
/-- R169: RESETN alone. -/
theorem test_resetnLow : (((station .active).after .resetnLow).after (.resetEnd .pin)).startCause = .pin := by
  decide +kernel
/-- R170: a power-up reset forgets the image. -/
theorem test_supplyDrop : ((station .active).after .supplyDrop).config = none := by decide +kernel
/-- R34. -/
theorem test_frameStart : (State.reset.after .frameStart).frameInProgress = false := by decide +kernel
/-- R33, R38: channel 0 is the first word of the frame, channel 1 the second. -/
theorem test_frameArrival :
    ((({ withPub (station .active) capturePub with frameInProgress := true }).after
      (.frameArrival 0x00010002000300040005000600070008)).pub 1).bind Pub.builder =
        some ⟨0, 1, [1, 2], some (0, 0)⟩ := by decide +kernel
/-- R33, R183: the edge that sees the fall samples nothing; the first bit is the one of the next edge. -/
theorem test_fsync_fall :
    (tickOf (.fclkRise false true) { station .active with fsyncHigh := true }).frameBits = []
      ∧ (tickOf (.fclkRise false true)
        (tickOf (.fclkRise false true) { station .active with fsyncHigh := true })).frameBits = [true] := by
  decide +kernel
/-- R33: the 128th bit is the least significant of channel 7. -/
theorem test_frame_128th_bit :
    ((tickOf (.fclkRise true true)
      { withPub (station .active) { capturePub with mask := 0x81 } with
        frameInProgress := true
        frameBits := true :: List.replicate 126 false }).pub 1).bind Pub.builder =
          some ⟨0, 1, [0x8000, 1], some (0, 0)⟩ := by decide +kernel
/-- R34: a new fall discards the bits sampled. -/
theorem test_frame_discarded :
    (tickOf (.fclkRise false true)
      { station .active with
        frameInProgress := true
        frameBits := List.replicate 127 true
        fsyncHigh := true }).frameBits = [] := by decide +kernel
/-- R101: the image has the rising edge. -/
theorem test_markinEdge : ((station .active).after (.markinEdge .falling)).markPending = false := by decide +kernel
/-- 12.1, step 2. -/
theorem test_askDelayExpiry : ((withSub (station .active) holed).after (.askDelayExpiry 0)).offers =
    [freshOffer (.ask 0)] := by decide +kernel
/-- R79, R62: the third attempt ends, the hole at 7 becomes a placeholder, and 8 is delivered. -/
theorem test_answerWaitExpiry :
    (((withSub (station .active) { holed with repair := ⟨.answer, 3, .answerWait 5000⟩ }).after
      (.answerWaitExpiry 0)).sub 0).map (fun w => (w.b, w.h, w.lost, w.delivered)) = some (2, -1, 1, 1) := by
  decide +kernel
/-- R102: the expiry triggers and the timer restarts. -/
theorem test_intervalTimerExpiry : ((station .active).after .intervalTimerExpiry).markPending = true := by
  decide +kernel
/-- R123. -/
theorem test_presenceTimerExpiry : ((station .active).after .presenceTimerExpiry).offers =
    [freshOffer (.hello .presence)] := by decide +kernel
/-- R122: the effective interval of a peer not yet heard is the own one. -/
theorem test_silenceTimerSilent : ((station .active).after (.silenceTimerSilent 3)).notices =
    [⟨.peerSilent, .address 3, 1, 20⟩] := by decide +kernel
/-- R70: the origin's subscription is ORPHANED. -/
theorem test_silenceTimerGone :
    ((({ busy .active with roster := (busy .active).roster.set 2 { heardEntry with state := .silent } }).after
      (.silenceTimerGone 3)).sub 0).map Sub.state = some .orphaned := by decide +kernel
/-- R148. -/
theorem test_listenSpanExpiry : (({ station .listening with listenTimer := .running 600000 }).after
    .listenSpanExpiry).offers = [freshOffer (.hello .join)] := by decide +kernel
/-- R135: class 2 goes before class 3, and the content is the retained record. -/
theorem test_parcelStart :
    (({ idle (offering .active) with offers := [freshOffer (.hello .presence), queuedOffer] }).after
      .parcelStart).offers = [freshOffer (.hello .presence), { queuedOffer with flight := some queuedParcel }] := by
  decide +kernel
/-- R23: QUEUED becomes SENT. -/
theorem test_outcomeSent :
    (({ offering .active with offers := [flying (.fresh 1 1) 0 queuedParcel.body] }).after .outcomeSent).posOf 1 1 =
      .sent (sealedRecord 1) := by decide +kernel
/-- R139: the failures stay. -/
theorem test_outcomeLost :
    (({ offering .active with offers := [flying (.fresh 1 1) 2 queuedParcel.body] }).after .outcomeLost).offers =
      [{ queuedOffer with failures := 2 }] := by decide +kernel
/-- R140: the fourth failure exhausts the entry. -/
theorem test_outcomeFailed :
    (({ offering .active with offers := [flying (.fresh 1 1) 3 queuedParcel.body] }).after .outcomeFailed).offers =
      [] := by decide +kernel
/-- R118: the mark is stored. -/
theorem test_helloAccepted :
    (((idle (busy .active)).after (.helloAccepted from3 ⟨7, 1, 40, 20, false, []⟩)).peer 3).mark = some 40 := by
  decide +kernel
/-- R106: two numbers later, so one mark was missed. -/
theorem test_markAccepted : ((idle (busy .active)).after (.markAccepted from3 2)).notices =
    [⟨.markAdopted, .none, 1, 2⟩, ⟨.markGap, .none, 1, 1⟩] := by decide +kernel
/-- 12.1, step 1: a hole, and the machine in DELAY with 2.45 ms. -/
theorem test_dataAccepted : (((idle (busy .active)).after (.dataAccepted from3 (data3 8))).sub 0).map Sub.repair =
    some ⟨.delay, 0, .askDelay 2450⟩ := by decide +kernel
/-- R87: sequence 0 is SENT and becomes RESEND; sequence 1 is QUEUED and coalesces. -/
theorem test_askAccepted : ((idle (offering .active)).after (.askAccepted from3 ⟨9, 1, 1, 0, 2⟩)).offers =
    [queuedOffer, freshOffer (.resend 1 0)] := by decide +kernel
/-- R85: the hole at 7 is given up. -/
theorem test_goneAccepted :
    (((idle (withSub (station .active) holed)).after (.goneAccepted from3 ⟨2, 1, 7, 7⟩)).sub 0).map Sub.point =
      some (some ⟨1, 9⟩) := by decide +kernel
/-- R155: the line must be idle again. -/
theorem test_brokenParcel : ((idle (station .active)).after .brokenParcel).lineIdle = false := by decide +kernel
/-- R160: nothing but the line interface sees it. -/
theorem test_discardedParcel :
    (idle (busy .active)).after (.discardedParcel [1, 2, 3]) = { busy .active with bits := ⟨7, 0, none, false⟩ } := by
  decide +kernel
/-- R153: OFFLINE reads nothing. -/
theorem test_lineIdle : ((station .offline).after .lineIdle).lineIdle = false := by decide +kernel
/-- R162, R163: the eighth bit of 0x04 completes JOIN. -/
theorem test_spi_join :
    (tickOf (.sckRise false) (collected [false, false, false, false, false, true, false])).line = .listening := by
  decide +kernel
/-- R165: CONFIGURE after it is refused at its code byte. -/
theorem test_spi_refused :
    (tickOf (.sckRise true) (collected [false, false, false, false, false, false, false])).txn = .responding [0x11] := by
  decide +kernel
/-- R162, R164: most significant bit first; 0x1F begins 0, 0, 0, 1. -/
theorem test_spi_response :
    (tickOf .sckFall ((collected []).answers [0x1F])).sdoLevel = some false
      ∧ (tickOf .sckFall { (collected []).answers [0x1F] with spi := ⟨[], [], 3, false⟩ }).sdoLevel = some true := by
  decide +kernel
/-- R153: nine recessive bits read, and the tenth. -/
theorem test_tenth_recessive :
    (tickOf (.bitTime true) { station .listening with bits := ⟨9, 0, none, false⟩ }).lineIdle = true
      ∧ (tickOf (.bitTime true) { station .listening with bits := ⟨8, 0, none, false⟩ }).lineIdle = false := by
  decide +kernel
/-- R156: a peer's start bit ends the idle condition, so nothing starts. -/
theorem test_start_bit :
    (tickOf (.bitTime false) (idle (station .active))).lineIdle = false
      ∧ (tickOf (.bitTime false) (idle (station .active))).assembling = true := by decide +kernel
/-- R155: the sixth equal bit breaks the parcel. -/
theorem test_sixth_equal_bit :
    (tickOf (.bitTime false)
      { station .active with assembling := true, bits := ⟨0, 0, some ⟨false, 5, [], none⟩, false⟩ }).assembling = false := by
  decide +kernel
/-- R137, R157: byte 0 of a class 2 parcel begins with a recessive bit; read dominant it is LOST. -/
theorem test_first_bit_lost : (tickOf (.bitTime false) (driving 1)).offers = [queuedOffer] := by decide +kernel
/-- R149, R158: LEAVE and JOIN with the join HELLO on the line: at LOST the entry goes and nothing is assembled. -/
theorem test_left_join :
    ((rejoined 0).after .outcomeLost).offers = [] ∧ ((rejoined 0).after .outcomeLost).assembling = false := by
  decide +kernel
/-- R8 at a state with rings and windows lent. -/
theorem test_slotTotal : (busy .active).slotTotal = 256 := by decide +kernel

/-! ### Witnesses: for each statement with hypotheses a state and operands that meet them, clause by clause -/

/-- A sound ACTIVE station with a queued command, a publication, a subscription and an entry in the list. -/
def running : State := { idle (offering .active) with pending := [.parcelStart, .markinEdge .rising] }

theorem running_sound : Sound running where
  notices := by decide +kernel
  slots := by decide +kernel
  config := by decide +kernel
  list := by decide +kernel
  wait := by decide +kernel
  markOffer := by decide +kernel
  goneOffer := by decide +kernel
  goneLine := by decide +kernel
  positions := by decide +kernel
  rings := by decide +kernel
  closing := by decide +kernel
  windows := by decide +kernel
  repairs := by decide +kernel
  asks := by decide +kernel
  frame := by decide +kernel
  line := by decide +kernel
  roster := by decide +kernel

theorem running_steps :
    step running = .next ({ running with pending := [.markinEdge .rising] }.after .parcelStart) := rfl

/-- A station at whose wires something happens. -/
def wired0 : State := { idle (offering .active) with wires := [.bitTime false, .sckFall] }

theorem witness_StepRunsFront :
    running.pending = .parcelStart :: [.markinEdge .rising] ∧ (busy .active).pending = [] ∧ (busy .active).wires = []
      ∧ wired0.pending = [] ∧ wired0.wires = .bitTime false :: [.sckFall] := ⟨rfl, rfl, rfl, rfl, rfl⟩

/-- A queue in its full form: 31 entries and NOTICE_OVERFLOW in the 32nd place. -/
def fullQueue : List Notice :=
  ((List.range 31).map fun i => ⟨.peerSilent, .address (BitVec.ofNat 6 (i + 1)), 255, 20⟩)
    ++ [⟨.noticeOverflow, .none, 1, 0x20⟩]

theorem witness_StepKeepsNotices :
    NoticesOk ({ running with notices := fullQueue } : State).notices
      ∧ ∃ t, step { running with notices := fullQueue } = .next t := ⟨by decide +kernel, _, rfl⟩
theorem witness_SlotSumConstant : running.slotTotal = 256 ∧ ∃ t, step running = .next t := ⟨by decide +kernel, _, rfl⟩
theorem witness_StepKeepsSlots : SlotsOk running ∧ ∃ t, step running = .next t := ⟨running_sound.slots, _, rfl⟩
theorem witness_StepKeepsConfig :
    (ConfigOk running ∧ ∃ t, step running = .next t)
      ∧ ConfigOk { State.reset with pending := [.powerUp] }
      ∧ ∃ t, step { State.reset with pending := [.powerUp] } = .next t :=
  ⟨⟨running_sound.config, _, rfl⟩, by decide +kernel, _, rfl⟩
theorem witness_StepKeepsOfferList : ListOk running ∧ ∃ t, step running = .next t := ⟨running_sound.list, _, rfl⟩
theorem witness_StepKeepsTimers : ConfigOk running ∧ LineOk running ∧ ∃ t, step running = .next t :=
  ⟨running_sound.config, running_sound.line, _, rfl⟩
theorem witness_StepKeepsRoster : ConfigOk running ∧ RosterOk running ∧ ∃ t, step running = .next t :=
  ⟨running_sound.config, running_sound.roster, _, rfl⟩
theorem witness_StepKeepsRings : ConfigOk running ∧ RingsOk running ∧ ∃ t, step running = .next t :=
  ⟨running_sound.config, running_sound.rings, _, rfl⟩
theorem witness_StepKeepsWindows :
    ConfigOk running ∧ RosterOk running ∧ WindowsOk running ∧ ∃ t, step running = .next t :=
  ⟨running_sound.config, running_sound.roster, running_sound.windows, _, rfl⟩
theorem witness_StepKeepsSound : Sound running ∧ ∃ t, step running = .next t := ⟨running_sound, _, rfl⟩

/-- The QUEUED position's parcel is on the line. -/
def onLine : State := { offering .active with offers := [{ queuedOffer with flight := some queuedParcel }] }

theorem witness_FlightAndImageFixed :
    (canReset .leave = false ∧ stepKind .leave ≠ .outcome
        ∧ (∃ t, exec .leave (host onLine) = .next t)
        ∧ { queuedOffer with flight := some queuedParcel } ∈ (host onLine).offers
        ∧ ({ queuedOffer with flight := some queuedParcel } : Offer).inFlight = true)
      ∧ (host onLine).config = some image :=
  ⟨⟨rfl, by decide, ⟨_, rfl⟩, by decide +kernel, rfl⟩, rfl⟩

/-- The own MARK is on the line with the number 1. -/
def markOnLine : State :=
  { station .active with markPending := true, offers := [⟨.mark, 0, some ⟨⟨0, 9, 9⟩, .mark 1⟩⟩] }

theorem witness_MarkMovesForward :
    MarkOfferOk markOnLine ∧ (∃ t, exec .outcomeSent markOnLine = .next t) := ⟨by decide +kernel, _, rfl⟩

/-- `drained` with a placeholder after the two records. -/
def placed : Sub :=
  { drained with
    slots := [⟨2, .taken (peerRecord 7)⟩, ⟨3, .ready (peerRecord 8)⟩,
      ⟨4, .lost { peerRecord 9 with lost := true, samples := [] }⟩, ⟨5, .free⟩]
    point := some ⟨1, 10⟩
    p := 3
    b := 3
    lost := 1 }

theorem witness_DeliveredRecordsStay :
    WindowsOk (idle (withSub (station .active) placed)) ∧ canReset (.dataAccepted from3 (data3 10)) = false
      ∧ (∃ t, exec (.dataAccepted from3 (data3 10)) (idle (withSub (station .active) placed)) = .next t)
      ∧ (idle (withSub (station .active) placed)).sub 0 = some placed
      ∧ placed.at 0 = .taken (peerRecord 7) ∧ placed.at 1 = .ready (peerRecord 8)
      ∧ placed.at 2 = .lost { peerRecord 9 with lost := true, samples := [] } :=
  ⟨by decide +kernel, rfl, ⟨_, rfl⟩, by decide +kernel, rfl, rfl, rfl⟩

/-- The part held in reset by the supply. -/
def heldReset : State := State.reset.after .powerUp

/-- Seven bits of a code byte. -/
def seventh : List Bool := List.replicate 7 false

theorem witness_PortTransactions :
    ((station .active).scsLow = false ∧ (station .active).inReset = false ∧ (station .active).txn = .idle)
      ∧ (heldReset.scsLow = false ∧ heldReset.inReset = true)
      ∧ (host (station .active)).scsLow = true
      ∧ ((station .active).answers [0x10]).txn = .responding [0x10]
      ∧ (station .active).txn = .idle
      ∧ stepKind .status = .always ∧ stepKind .mark = .command ∧ (station .active).txn ≠ .collecting := by
  decide +kernel
theorem witness_PortTransactions_bits :
    ((collected []).scsLow = true ∧ (collected []).collecting = true ∧ (collected []).spi.bits.length < 7)
      ∧ (seventh.length = 7 ∧ [(0x01 : Byte)] = (collected seventh).spi.bytes ++ [bitsByte (seventh ++ [true])]
        ∧ (collected seventh).spi.bytes = [] ∧ knownCode 0x01 = true ∧ (collected seventh).config.isSome = true)
      ∧ ((host State.reset).config = none ∧ knownCode 0x04 = true ∧ (0x04 : Byte) ≠ 0x01 ∧ (0x04 : Byte) ≠ 0x02
        ∧ (0x04 : Byte) ≠ 0x03)
      ∧ ([(0x00 : Byte)] = (collected seventh).spi.bytes ++ [bitsByte (seventh ++ [false])] ∧ knownCode 0x00 = false
        ∧ decodeCommand [0x00] = some (.unknownCode 0))
      ∧ ((collected seventh).config.isSome = true ∧ (0x11 : Byte) ≠ 0x01 ∧ decodeCommand [0x11] = none
        ∧ decodeCommand [0x11, 0x0F] = some (.closePub 15)
        ∧ (State.reset).config = none ∧ decodeCommand [0x03] = some .status)
      ∧ (((collected []).answers [0x1F, 2]).scsLow = true ∧ ((collected []).answers [0x1F, 2]).txn = .responding [0x1F, 2]
        ∧ [(0x1F : Byte), 2][1]? = some 2 ∧ 7 < 8
        ∧ ({ (collected []).answers [0x1F, 2] with spi := ⟨[], [], 15, false⟩ } : State).spi.out = 8 * 1 + 7
        ∧ ((collected []).answers [0x1F, 2]).spi.out = 8 * 0 + 0)
      ∧ ((host (station .active)).scsLow = true ∧ (host (station .active)).txn = .collecting)
      ∧ (station .active).scsLow = false ∧ (station .active).txn = .idle := by decide +kernel
theorem witness_CodeByteRefusals :
    ((host State.reset).collecting = true ∧ knownCode 0x0A = false ∧ knownCode 0 = false ∧ knownCode 0xFF = false)
      ∧ ((host State.reset).config = none ∧ stepKind .join = .command ∧ stepKind (.put 16 0 []) = .command)
      ∧ (host (station .offline)).collecting = true ∧ (host (station .offline)).config.isSome = true := by
  decide +kernel
theorem witness_ConfigureStoresImage :
    ((host State.reset).collecting = true ∧ (host State.reset).config = none)
      ∧ ({ image with address := 1, interval := 0 } : Image).inRange = true
      ∧ ({ image with address := 62, attempts := 7, interval := 60000, pinEdge := 2 } : Image).inRange = true
      ∧ ({ image with address := 0 } : Image).inRange = false
      ∧ ({ image with address := 63 } : Image).inRange = false
      ∧ ({ image with interval := 60001 } : Image).inRange = false := by decide +kernel
theorem witness_RestartResets :
    (host (busy .active)).collecting = true ∧ (host State.reset).collecting = true := by decide +kernel
theorem witness_ResetsBeginAndEnd :
    (station .active).pinHold = false ∧ ((station .active).after .resetnLow).pinHold = true
      ∧ (heldReset.supplyHold = decide (ResetHold.supply = .supply) ∧ heldReset.pinHold = decide (ResetHold.supply = .pin))
      ∧ (((station .active).after .resetnLow).supplyHold = decide (ResetHold.pin = .supply)
        ∧ ((station .active).after .resetnLow).pinHold = decide (ResetHold.pin = .pin))
      ∧ ((heldReset.after .resetnLow).supplyHold = true ∧ (heldReset.after .resetnLow).pinHold = true)
      ∧ (station .active).supplyHold = false := by decide +kernel
theorem witness_StatusReports :
    (host (busy .active)).collecting = true
      ∧ (host State.reset).collecting = true ∧ ConfigOk (host State.reset) ∧ (host State.reset).config = none := by
  decide +kernel
theorem witness_NextNoticeRemovesOldest :
    ((host { running with notices := fullQueue }).takes
        ∧ ({ running with notices := fullQueue } : State).notices = fullQueue.head (by decide) :: fullQueue.tail)
      ∧ (NoticesOk [⟨.noticeOverflow, .none, 255, 0x20⟩])
      ∧ ((host (busy .active)).takes ∧ (busy .active).notices = [])
      ∧ (host State.reset).collecting = true ∧ (host State.reset).config = none := by decide +kernel
theorem witness_NoticePosting :
    (fullQueue = [] ++ ⟨.peerSilent, .address 1, 255, 20⟩ :: fullQueue.tail
        ∧ ∀ x ∈ [] ++ fullQueue.tail, ¬(x.kind = .peerSilent ∧ x.object = .address 1))
      ∧ ((∀ x ∈ fullQueue, ¬(x.kind = .markAdopted ∧ x.object = .none))
        ∧ fullQueue = fullQueue.dropLast ++ [⟨.noticeOverflow, .none, 1, 0x20⟩]
        ∧ ∀ x ∈ fullQueue.dropLast, x.kind ≠ .noticeOverflow)
      ∧ ((∀ x ∈ fullQueue.dropLast.dropLast, ¬(x.kind = .markAdopted ∧ x.object = .none))
        ∧ (∀ x ∈ fullQueue.dropLast.dropLast.getLast?, x.kind ≠ .noticeOverflow)
        ∧ fullQueue.dropLast.dropLast.length ≤ 30)
      ∧ (∀ x ∈ fullQueue.dropLast, ¬(x.kind = .markAdopted ∧ x.object = .none))
        ∧ (∀ x ∈ fullQueue.dropLast.getLast?, x.kind ≠ .noticeOverflow)
        ∧ fullQueue.dropLast.length = 31 := by decide +kernel
theorem witness_RosterReports :
    ((host State.reset).collecting = true ∧ (host State.reset).config = none)
      ∧ ((host (busy .active)).collecting = true ∧ (host (busy .active)).config = some image)
      ∧ ¬(1 ≤ (0 : Byte).toNat ∧ (0 : Byte).toNat ≤ 62) ∧ ¬(1 ≤ (63 : Byte).toNat ∧ (63 : Byte).toNat ≤ 62)
      ∧ addrOf 9 = addrOf image.address
      ∧ addrOf 1 ≠ addrOf image.address ∧ addrOf 62 ≠ addrOf image.address := by decide +kernel

theorem witness_JoinAndLeaveOffline :
    ((host (station .offline)).collecting = true ∧ (host (station .offline)).config = some image
        ∧ (host (station .offline)).line = .offline)
      ∧ ((host (station (.mute .lineFault))).collecting = true ∧ (host (station (.mute .lineFault))).config = some image
        ∧ (host (station (.mute .lineFault))).line = .mute .lineFault)
      ∧ ((host (station (.mute .conflict))).collecting = true ∧ (host (station (.mute .conflict))).config = some image
        ∧ (station (.mute .conflict)).line ≠ .offline ∧ (station (.mute .conflict)).line ≠ .mute .lineFault
        ∧ (station (.mute .conflict)).line ≠ .listening ∧ (station (.mute .conflict)).line ≠ .active)
      ∧ (host (station .listening)).collecting = true ∧ (host (station .listening)).config = some image
        ∧ (host (station .listening)).line = .listening := by decide +kernel
theorem witness_LeaveActiveDeparts :
    (host onLine).takes ∧ onLine.line = .active ∧ ListOk (host onLine) ∧ WaitOk (host onLine)
      ∧ MarkOfferOk (host onLine) ∧ AsksOk (host onLine) := by decide +kernel
theorem witness_TriggersRaiseOneMark :
    ((host (station .active)).takes ∧ (station .active).line = .active ∧ (host (station .active)).markPending = false
        ∧ (host (station .active)).hasOffer .mark = false)
      ∧ ((host markOnLine).takes ∧ markOnLine.line = .active ∧ (host markOnLine).markPending = true)
      ∧ ((host (station .offline)).takes ∧ (station .offline).line ≠ .active)
      ∧ ((station .active).config = some image ∧ image.pinEdge = 1)
      ∧ (({ station .active with config := some { image with pinEdge := 2 } } : State).line = .active
        ∧ ({ image with pinEdge := 2 } : Image).pinEdge = 2)
      ∧ (∃ c ∈ (station .active).config, ¬(c.pinEdge = 1 ∧ Edge.falling = .rising ∨ c.pinEdge = 2 ∧ Edge.falling = .falling))
      ∧ State.reset.config = none
      ∧ (station .active).intervalTimer = .running 50000 ∧ (station .offline).intervalTimer = .stopped := by
  decide +kernel

theorem witness_OpenPubLends :
    (host (station .active)).takes ∧ (station .active).pub 0 = none ∧ (station .active).pub 15 = none
      ∧ openPubInRange (byteOf 0) 1 2 0 0 0 0 ∧ openPubInRange (byteOf 15) 0 16 1 0xFF 4 256
      ∧ openPubInRange (byteOf 15) 0 16 1 0x80 32 1
      ∧ (16 : Byte).toNat ≤ (host (station .active)).freeSlots.length := by
  and_intros <;> decide +kernel

/-- A station with one free slot. -/
def poor : State := { station .active with freeSlots := [255] }

/-- A station with all thirty-two handles open. -/
def crowded : State :=
  { station .active with
    subs := Vector.ofFn fun i => some
      { sub0 with
        origin := BitVec.ofNat 6 (i.val + 10)
        slots := [⟨2 * i.val, .free⟩, ⟨2 * i.val + 1, .free⟩] }
    freeSlots := (List.range 256).drop 64 }

theorem witness_OpenRefusals :
    ((host (busy .active)).takes ∧ ¬openPubInRange 16 1 2 0 0 0 0 ∧ ¬openPubInRange 0 1 1 0 0 0 0
        ∧ ¬openPubInRange 0 1 17 0 0 0 0 ∧ ¬openPubInRange 0 0 2 0 0x0F 9 1)
      ∧ (openPubInRange 1 1 2 0 0 0 0 ∧ (1 : StreamNo).val = (1 : Byte).toNat ∧ (busy .active).pub 1 ≠ none)
      ∧ (openPubInRange 15 1 2 0 0 0 0 ∧ (15 : StreamNo).val = (15 : Byte).toNat
        ∧ (host poor).takes
        ∧ poor.pub 15 = none
        ∧ poor.freeSlots.length < (2 : Byte).toNat)
      ∧ (¬openSubInRange (busy .active).ownAddr 9 2 4 0 0 ∧ ¬openSubInRange (busy .active).ownAddr 63 2 4 0 0
        ∧ ¬openSubInRange (busy .active).ownAddr 3 2 33 0 0)
      ∧ (openSubInRange (busy .active).ownAddr 3 2 32 2 1 ∧ (busy .active).sub 0 = some sub0
        ∧ sub0.origin = addrOf 3 ∧ sub0.stream.val = (2 : Byte).toNat)
      ∧ ((host crowded).takes ∧ openSubInRange crowded.ownAddr 62 2 2 0 0
        ∧ (∀ h : SubHandle, ∀ w ∈ crowded.sub h, w.origin = addrOf 62 → w.stream.val ≠ (2 : Byte).toNat)
        ∧ ∀ h : SubHandle, crowded.handleInUse h = true)
      ∧ openSubInRange (station .active).ownAddr 3 2 2 0 0
        ∧ ∀ h : SubHandle, ∀ w ∈ poor.sub h,
          w.origin = addrOf 3 → w.stream.val ≠ (2 : Byte).toNat := by
  and_intros <;> decide +kernel

/-- `onLine` with its publication CLOSING. -/
def closing : State :=
  { onLine with
    streams := onLine.streams.set 1 ⟨1, none, some
      { hostPub with state := .closing }⟩ }

theorem witness_ClosePubReturns :
    ((host (offering .active)).takes ∧ (offering .active).pub 1 = some hostPub ∧ hostPub.state ≠ .closing
        ∧ (host (offering .active)).dataInFlight 1 = false)
      ∧ ((host onLine).takes ∧ onLine.pub 1 = some hostPub ∧ (host onLine).dataInFlight 1 = true)
      ∧ ((host closing).takes ∧ closing.pub 1 = some { hostPub with state := .closing })
      ∧ (offering .active).pub 0 = none ∧ 15 < (16 : Byte).toNat := by decide +kernel
theorem witness_PutSeals :
    ((host (offering .active)).takes ∧ (1 ≤ (32 : Byte).toNat ∧ (32 : Byte).toNat ≤ 32
        ∧ (List.replicate 31 (0 : Sample)).length < (32 : Byte).toNat))
      ∧ ((15 < (16 : Byte).toNat ∧ 1 ≤ (1 : Byte).toNat ∧ (1 : Byte).toNat ≤ [(7 : Sample)].length)
        ∧ ¬(1 ≤ (0 : Byte).toNat ∧ (0 : Byte).toNat ≤ 32) ∧ ¬(1 ≤ (33 : Byte).toNat ∧ (33 : Byte).toNat ≤ 32))
      ∧ ((offering .active).pub 15 = none ∧ [(7 : Sample)].length = (1 : Byte).toNat)
      ∧ ((host (withPub (station .active) capturePub)).takes
        ∧ (withPub (station .active) capturePub).pub 1 = some capturePub ∧ capturePub.source = .capture)
      ∧ ((host closing).takes ∧ hostPub.source = .host
        ∧ ({ hostPub with state := .closing } : Pub).state ≠ .running)
      ∧ ((offering .active).pub 1 = some hostPub ∧ hostPub.head = some ⟨1, 1⟩
        ∧ (hostPub.posAt ((1 + 1) % hostPub.size)).offered = false
        ∧ (host (offering .active)).hasOffer (.fresh 1 ((1 + 1) % hostPub.size)) = false)
      ∧ ((host (withPub (station .active) { hostPub with head := some ⟨0, 0⟩ })).takes
        ∧ (({ hostPub with head := some ⟨0, 0⟩ } : Pub).posAt ((0 + 1) % hostPub.size)).offered = true)
      ∧ (host (withPub (station .active) { hostPub with head := none, ring := [⟨0, .empty⟩, ⟨1, .empty⟩] })).takes
        ∧ (({ hostPub with head := none, ring := [⟨0, .empty⟩, ⟨1, .empty⟩] } : Pub).posAt 0).offered = false
        ∧ (station .active).hasOffer (.fresh 1 0) = false := by decide +kernel
theorem witness_StatusOfPubsAndSubs :
    ((host (busy .active)).takes ∧ (busy .active).pub 1 = some hostPub ∧ (busy .active).pub 15 = none)
      ∧ (busy .active).sub 0 = some sub0 ∧ (busy .active).sub 31 = none
      ∧ 15 < (16 : Byte).toNat ∧ 31 < (32 : Byte).toNat := by decide +kernel

/-- Peer 3 with advertisements: stream 4 with the run 5..9, stream 5 with nothing sealed. -/
def advertised : State :=
  { busy .active with
    roster := (busy .active).roster.set 2 { heardEntry with adverts := [⟨4, 2, some (5, 9)⟩, ⟨5, 2, none⟩] } }

theorem witness_OpenSubStarts :
    (host advertised).takes
      ∧ (openSubInRange advertised.ownAddr 3 4 2 2 1 ∧ openSubInRange advertised.ownAddr 3 4 32 0 0
        ∧ openSubInRange advertised.ownAddr 3 5 32 0 0 ∧ openSubInRange advertised.ownAddr 62 15 2 1 0)
      ∧ (4 : StreamNo).val = (4 : Byte).toNat ∧ (5 : StreamNo).val = (5 : Byte).toNat
      ∧ (15 : StreamNo).val = (15 : Byte).toNat
      ∧ (∀ h : SubHandle, ∀ w ∈ advertised.sub h, ¬(w.origin = addrOf 3 ∧ w.stream = 4)
        ∧ ¬(w.origin = addrOf 3 ∧ w.stream = 5) ∧ ¬(w.origin = addrOf 62 ∧ w.stream = 15))
      ∧ advertised.handleInUse 1 = false ∧ (∀ h : SubHandle, h < 1 → advertised.handleInUse h = true)
      ∧ (32 : Byte).toNat ≤ advertised.freeSlots.length
      ∧ (advertised.peer 3).advertOf 4 = some ⟨4, 2, some (5, 9)⟩
      ∧ (advertised.peer 3).advertOf 5 = some ⟨5, 2, none⟩ ∧ (advertised.peer 62).advertOf 15 = none := by
  decide +kernel
theorem witness_CloseSubReturns :
    (host (busy .active)).takes ∧ (busy .active).sub 0 = some sub0 ∧ (busy .active).sub 31 = none
      ∧ 31 < (32 : Byte).toNat := by decide +kernel

/-- An ACTIVE station with `hostPub` and a subscription. -/
def withWindow (w : Sub) : State := withSub (withPub (station .active) hostPub) w

theorem witness_TakeOldest :
    ((host (withWindow drained)).takes ∧ (withWindow drained).sub 0 = some drained ∧ 1 < drained.b
        ∧ 1 = (drained.tail + 1) % drained.size ∧ drained.at 1 = .ready (peerRecord 8)
        ∧ ∀ j < 1, (drained.at ((drained.tail + j) % drained.size)).isWaiting = false)
      ∧ ((withWindow sub0).sub 0 = some sub0
        ∧ ∀ j < sub0.b, (sub0.at ((sub0.tail + j) % sub0.size)).isWaiting = false)
      ∧ (withWindow sub0).sub 31 = none ∧ 31 < (32 : Byte).toNat := by decide +kernel
theorem witness_ReadAndRelease :
    ((host (withWindow drained)).takes ∧ SlotsOk (host (withWindow drained)) ∧ WindowsOk (host (withWindow drained))
        ∧ (withWindow drained).sub 0 = some drained ∧ drained.slots[0]? = some ⟨2, .taken (peerRecord 7)⟩
        ∧ (0 : Byte).toNat + (2 : Byte).toNat ≤ (peerRecord 7).samples.length
        ∧ (peerRecord 7).samples.length < (31 : Byte).toNat + (32 : Byte).toNat)
      ∧ (∀ h : SubHandle, ∀ w ∈ (withWindow drained).sub h, ∀ y ∈ w.slots, y.state.isTaken = true → y.slot ≠ 255)
      ∧ ¬((32 : Byte).toNat ≤ 31 ∧ 1 ≤ (1 : Byte).toNat ∧ (1 : Byte).toNat ≤ 32)
      ∧ ¬((0 : Byte).toNat ≤ 31 ∧ 1 ≤ (0 : Byte).toNat ∧ (0 : Byte).toNat ≤ 32)
      ∧ ¬((0 : Byte).toNat ≤ 31 ∧ 1 ≤ (33 : Byte).toNat ∧ (33 : Byte).toNat ≤ 32) := by decide +kernel

/-- `holed` STALLED at its hole. -/
def stalledSub : Sub := { holed with policy := .stall, state := .stalled, repair := ⟨.halted, 0, .stopped⟩ }

theorem witness_ResumeSkips :
    ((host (busy .active)).takes ∧ (busy .active).sub 0 = some sub0 ∧ sub0.state ≠ .stalled)
      ∧ ((host (withWindow stalledSub)).takes ∧ (withWindow stalledSub).sub 0 = some stalledSub
        ∧ stalledSub.state = .stalled ∧ stalledSub.point = some ⟨1, 7⟩)
      ∧ (busy .active).sub 31 = none ∧ 31 < (32 : Byte).toNat := by decide +kernel
theorem witness_DeliveryAndAbandonSteps :
    (holed.p < holed.size ∧ (fullSub.p < fullSub.size)) ∧ holed.b < holed.size ∧ fullSub.size ≤ fullSub.b := by
  decide +kernel

/-- A frame is being shifted in. -/
def framing : State := { withPub (station .active) capturePub with frameInProgress := true }

/-- The first 127 bits of a frame have been sampled, none of them 1 but the first. -/
def shifting : State := { framing with frameBits := true :: List.replicate 126 false }

theorem witness_FramesFillBuilders :
    ((station .active).config.isSome = true ∧ State.reset.config = none ∧ (station .active).frameInProgress = false)
      ∧ (heldReset.inReset = true ∧ (station .active).inReset = false ∧ (station .active).fsyncHigh = false
        ∧ ({ framing with fsyncHigh := true } : State).inReset = false)
      ∧ (shifting.inReset = false ∧ shifting.frameInProgress = true ∧ shifting.frameBits.length = 127
        ∧ shifting.frameBits.dropLast.length < 127
        ∧ ∀ i : Fin 128, (shifting.frameBits ++ [true])[i]? = some ((1 + (1 : BitVec 128) <<< 127).getMsbD i))
      ∧ framing.config.isSome = true ∧ framing.frameInProgress = true ∧ RingsOk framing ∧ PositionsOk framing := by
  decide +kernel
theorem witness_CaptureGrid :
    (withPub (station .active) capturePub).config.isSome = true
      ∧ (withPub (station .active) capturePub).frameOffset = 0
      ∧ (withPub (station .active) capturePub).pub 1 = some capturePub ∧ capturePub.state = .running
      ∧ capturePub.source = .capture ∧ capturePub.builder = some ⟨0, 0, [], none⟩ ∧ 1 ≤ capturePub.k
      ∧ 1 ≤ capturePub.d := by decide +kernel

/-- A capture publication that has collected a frame, its target free, on an idle line. -/
def collecting : State :=
  { idle (withPub (station .active) { capturePub with builder := some ⟨0, 1, [1, 2], some (0, 0)⟩ }) with
    frameOffset := 1 }

theorem witness_PeerMarkAdopted :
    (collecting.hears from3 ∧ collecting.line = .active
        ∧ ¬(1 ≤ dist collecting.markNo 0 ∧ dist collecting.markNo 0 ≤ 32767)
        ∧ ¬(1 ≤ dist collecting.markNo 32768 ∧ dist collecting.markNo 32768 ≤ 32767))
      ∧ (1 ≤ dist collecting.markNo 1 ∧ dist collecting.markNo 1 ≤ 32767)
      ∧ (1 ≤ dist collecting.markNo 32767 ∧ dist collecting.markNo 32767 ≤ 32767)
      ∧ RingsOk collecting ∧ PositionsOk collecting ∧ MarkOfferOk collecting
      ∧ ((idle (station .departing)).hears from3 ∧ (idle (station (.mute .conflict))).hears from3) := by
  decide +kernel

/-! ### Witnesses: timers, parcels and receptions -/

/-- The machine of `holed` waits for an answer. -/
def answering (attempts : Nat) : Sub := { holed with repair := ⟨.answer, attempts, .answerWait 5000⟩ }

theorem witness_RepairTimerExpiries :
    ((withWindow holed).config = some image ∧ (withWindow holed).sub 0 = some holed ∧ holed.repair.state = .delay
        ∧ holed.repair.timer = .askDelay 2450)
      ∧ ((withWindow { answering 1 with h := -1 }).sub 0 = some { answering 1 with h := -1 }
        ∧ (answering 1).repair.state = .answer ∧ (answering 1).repair.timer = .answerWait 5000
        ∧ ({ answering 1 with h := -1 } : Sub).hasHole = false)
      ∧ ((withWindow (answering 2)).sub 0 = some (answering 2) ∧ (answering 2).hasHole = true
        ∧ (answering 2).repair.attempts < image.attempts.toNat)
      ∧ ((withWindow (answering 3)).sub 0 = some (answering 3) ∧ (answering 3).hasHole = true
        ∧ image.attempts.toNat ≤ (answering 3).repair.attempts ∧ (answering 3).state = .running
        ∧ (answering 3).point = some ⟨1, 7⟩ ∧ (answering 3).policy ≠ .stall)
      ∧ (withWindow { answering 3 with policy := .stall }).sub 0 = some { answering 3 with policy := .stall }
      ∧ (withWindow sub0).sub 0 = some sub0 ∧ sub0.repair.state ≠ .delay ∧ sub0.repair.state ≠ .answer := by
  decide +kernel

theorem witness_PresenceAndListenExpiries :
    ((busy .active).config = some image ∧ (busy .active).presenceTimer = .running 200000)
      ∧ (busy .offline).presenceTimer = .stopped
      ∧ (({ station .listening with listenTimer := .running 600000 } : State).line = .listening
        ∧ ({ station .listening with listenTimer := .running 600000 } : State).listenTimer = .running 600000)
      ∧ (busy .active).line ≠ .listening
      ∧ (((busy .active).peer 3).state = .present ∧ ((busy .active).peer 3).timerOn = true)
      ∧ (((busy .active).peer 1).state ≠ .present ∧ ((busy .active).peer 62).state ≠ .present) := by decide +kernel

/-- `s` with peer 3 in a state of the roster. -/
def peer3 (s : State) (p : PeerState) : State :=
  { s with roster := s.roster.set 2 { heardEntry with state := p, timerOn := decide (p = .present ∨ p = .silent) } }

/-- `sub0` WAITING. -/
def waitingSub (start : SubStart) : Sub := { sub0 with state := .waiting, point := none, start := start }

/-- The window of a second subscription of peer 3. -/
def pairSlots : List WinSlot :=
  [⟨6, .free⟩, ⟨7, .held { peerRecord 8 with stream := 4 }⟩, ⟨8, .free⟩, ⟨9, .free⟩]

/-- Two subscriptions of peer 3. -/
def pair : State :=
  { withWindow sub0 with
    subs := (withWindow sub0).subs.set 1 (some { holed with stream := 4, slots := pairSlots })
    freeSlots := (withWindow sub0).freeSlots.drop 4 }

theorem witness_PeerGoneOrphans :
    (((peer3 (busy .active) .silent).peer 3).state = .silent ∧ ((peer3 (busy .active) .silent).peer 3).timerOn = true
        ∧ WindowsOk (peer3 (busy .active) .silent) ∧ (peer3 (busy .active) .silent).sub 0 = some sub0
        ∧ sub0.origin = 3 ∧ sub0.state ≠ .orphaned ∧ sub0.policy ≠ .stall
        ∧ (peer3 (busy .active) .silent).sub 1 = none)
      ∧ (WindowsOk (peer3 (withWindow { holed with policy := .stall }) .silent)
        ∧ (peer3 (withWindow { holed with policy := .stall }) .silent).sub 0 = some { holed with policy := .stall })
      ∧ (WindowsOk (peer3 (withWindow holed) .silent) ∧ (peer3 (withWindow holed) .silent).sub 0 = some holed
        ∧ WindowsOk (peer3 (withWindow (waitingSub .history)) .silent)
        ∧ (peer3 (withWindow (waitingSub .history)) .silent).sub 0 = some (waitingSub .history)
        ∧ WindowsOk (peer3 pair .silent) ∧ pair.sub 1 = some { holed with stream := 4, slots := pairSlots })
      ∧ (WindowsOk (peer3 (station .active) .silent)
        ∧ ∀ h : SubHandle, ∀ w ∈ (peer3 (station .active) .silent).sub h, w.origin ≠ 3)
      ∧ ((busy .active).peer 3).state ≠ .silent := by and_intros <;> decide +kernel

/-- An idle line, with a presence HELLO waiting before the fresh entry. -/
def choosing : State := { idle (offering .active) with offers := [freshOffer (.hello .presence), queuedOffer] }

/-- The HELLO that station 9 composes, with its one advertisement. -/
def ownHello (departing : Bool) : Parcel :=
  ⟨⟨3, 9, 9⟩, .hello ⟨0x0A01, 5, 0, 20, departing, [⟨1, 1, some (0, 1)⟩]⟩⟩

theorem witness_ParcelStartSelects :
    (ListOk choosing ∧ choosing.lineIdle = true ∧ choosing.assembling = false
        ∧ (∀ x ∈ choosing.offers, x.inFlight = false)
        ∧ choosing.offers = [freshOffer (.hello .presence)] ++ queuedOffer :: [] ∧ choosing.line = .active
        ∧ (∀ x ∈ [freshOffer (.hello .presence)], choosing.line.allows x.item = true →
            queuedOffer.item.cls < x.item.cls)
        ∧ choosing.compose queuedOffer.item = some queuedParcel)
      ∧ (({ idle (busy .listening) with offers := [freshOffer (.hello .join)] } : State).compose (.hello .join) =
          some (ownHello false)
        ∧ ListOk { idle (busy .listening) with offers := [freshOffer (.hello .join)] })
      ∧ (({ idle (busy .departing) with offers := [freshOffer (.hello .departure)] } : State).compose
          (.hello .departure) = some (ownHello true)
        ∧ ListOk { idle (busy .departing) with offers := [freshOffer (.hello .departure)] })
      ∧ (busy .active).lineIdle = false ∧ ({ busy .active with assembling := true } : State).assembling = true
      ∧ (∃ x ∈ onLine.offers, x.inFlight = true) ∧ (idle (busy .active)).offers = [] := by decide +kernel
/-- What the receiving side of `driving` has after one bit. -/
def readOne (driven : Nat) (x : Bool) : LineBits := ⟨if x then 1 else 0, driven, none, false⟩

theorem witness_ParcelStartSelects_bits :
    (∀ k ∈ [1, 2, queuedParcel.lineBits.length - 1], ∀ x : Bool,
        (driving k).lineIdle = false ∧ (driving k).flying = some { queuedOffer with flight := some queuedParcel }
          ∧ (driving k).readAlong x = ({ driving k with bits := readOne k x }, .unfinished))
      ∧ (queuedParcel.lineBits[1]? = some true ∧ 1 + 1 < queuedParcel.lineBits.length
        ∧ 1 ≤ contentionBits queuedParcel.header.bytes)
      ∧ (queuedParcel.lineBits[queuedParcel.lineBits.length - 1]? = some true
        ∧ queuedParcel.lineBits.length - 1 + 1 = queuedParcel.lineBits.length
        ∧ contentionBits queuedParcel.header.bytes < queuedParcel.lineBits.length - 1)
      ∧ queuedParcel.lineBits[2]? = some false
      ∧ (queuedParcel.lineBits[0]? = some false ∧ (driving 0).line.receives = true ∧ (driving 0).bits.left = false
        ∧ (driving 0).readAlong true = ({ driving 0 with bits := readOne 0 true }, .unfinished)) := by decide +kernel
theorem witness_ParcelContents :
    ((busy .active).config = some image
        ∧ ∀ k : BitVec 2, (⟨k, 9, 9⟩ : Header) =
          ⟨k, BitVec.ofNat 6 (image.address.toNat + (busy .active).markNo.toNat), addrOf image.address⟩)
      ∧ ((withWindow holed).sub 0 = some holed ∧ holed.point = some ⟨1, 7⟩ ∧ holed.hasHole = true
        ∧ holed.b < holed.size)
      ∧ (({ busy .active with streams := (busy .active).streams.set 15 ⟨3, some ⟨3, 65535, 0⟩, none⟩ } : State).stream
          15).gone = some ⟨3, 65535, 0⟩
      ∧ ((busy .active).posOf 1 0).record = some (sealedRecord 0)
      ∧ ((busy .active).posOf 1 1).record = some (sealedRecord 1) :=
  ⟨⟨rfl, fun _ => rfl⟩, by decide +kernel, by decide +kernel, by decide +kernel, by decide +kernel⟩

/-- The ASK of handle 0 is on the line. -/
def askFlying (failures : Nat) : State :=
  { withWindow { holed with repair := ⟨.asking, 0, .stopped⟩ } with
    offers := [flying (.ask 0) failures (.ask ⟨3, 2, 1, 7, 2⟩)] }

/-- The GONE of stream 1 is on the line. -/
def goneFlying (failures : Nat) : State :=
  { busy .active with
    streams := (busy .active).streams.set 1 ⟨1, some ⟨1, 0, 3⟩, some hostPub⟩
    offers := [flying (.gone 1) failures (.gone ⟨1, 1, 0, 3⟩)] }

/-- A fresh DATA entry of stream 1 is on the line. -/
def freshFlying (failures : Nat) : State :=
  { busy .active with offers := [flying (.fresh 1 1) failures queuedParcel.body] }

/-- The own MARK is on the line with the number 1. -/
def markFlying (failures : Nat) : State :=
  { busy .active with markPending := true, offers := [flying .mark failures (.mark 1)] }

/-- A HELLO is on the line. -/
def helloFlying (l : LineState) (sort : HelloSort) (failures : Nat) : State :=
  { busy l with offers := [flying (.hello sort) failures (ownHello false).body] }

/-- The own MARK is on the line while a builder holds a frame. -/
def markOverFrames : State :=
  { withPub (station .active) { capturePub with builder := some ⟨0, 1, [1, 2], some (0, 0)⟩ } with
    frameOffset := 1
    markPending := true
    offers := [flying .mark 0 (.mark 1)] }

theorem witness_SentReachesOwner :
    (ListOk (askFlying 0) ∧ flying (.ask 0) 0 (.ask ⟨3, 2, 1, 7, 2⟩) ∈ (askFlying 0).offers
        ∧ (flying (.ask 0) 0 (.ask ⟨3, 2, 1, 7, 2⟩)).inFlight = true)
      ∧ (ListOk (goneFlying 3) ∧ flying (.gone 1) 3 (.gone ⟨1, 1, 0, 3⟩) ∈ (goneFlying 3).offers)
      ∧ (ListOk (freshFlying 0) ∧ flying (.fresh 1 1) 0 queuedParcel.body ∈ (freshFlying 0).offers
        ∧ (freshFlying 0).pub 1 = some hostPub ∧ hostPub.state ≠ .closing)
      ∧ (ListOk closing ∧ { queuedOffer with flight := some queuedParcel } ∈ closing.offers
        ∧ closing.pub 1 = some { hostPub with state := .closing })
      ∧ ∀ o ∈ (offering .active).offers, o.inFlight = false := by decide +kernel
theorem witness_SentMarkAndHello :
    (ListOk (markFlying 0) ∧ (markFlying 0).config = some image ∧ flying .mark 0 (.mark 1) ∈ (markFlying 0).offers
        ∧ (flying .mark 0 (.mark 1)).flight = some ⟨⟨0, 9, 9⟩, .mark 1⟩
        ∧ ∀ n : StreamNo, (markFlying 0).shortDue n = none)
      ∧ (ListOk markOverFrames ∧ markOverFrames.config = some image ∧ flying .mark 0 (.mark 1) ∈ markOverFrames.offers
        ∧ RingsOk markOverFrames ∧ PositionsOk markOverFrames ∧ (markOverFrames.shortDue 1).isSome = true)
      ∧ (ListOk (helloFlying .listening .join 0) ∧ (helloFlying .listening .join 0).line = .listening)
      ∧ (ListOk (rejoined 0) ∧ (rejoined 0).config = some image ∧ (rejoined 0).line = .listening
        ∧ (rejoined 0).bits.left = true
        ∧ flying (.hello .join) 0 (.hello ⟨0x0A01, 5, 0, 20, false, []⟩) ∈ (rejoined 0).offers)
      ∧ (ListOk (helloFlying .offline .join 0) ∧ (helloFlying .offline .join 0).line ≠ .listening)
      ∧ (ListOk (helloFlying .active .presence 3) ∧ (helloFlying .active .presence 3).line = .active)
      ∧ (ListOk (helloFlying .departing .presence 0) ∧ (helloFlying .departing .presence 0).line = .departing)
      ∧ ListOk (helloFlying .departing .departure 0)
      ∧ (flying (.hello .departure) 0 (ownHello false).body) ∈ (helloFlying .departing .departure 0).offers := by
  and_intros <;> decide +kernel
/-- LEAVE was taken in ACTIVE while the parcel of an entry was on the line. -/
def away (s : State) : State := { s with line := .departing }

theorem witness_LostAndFailedOutcomes :
    (ListOk (askFlying 2) ∧ (askFlying 2).offers = [] ++ flying (.ask 0) 2 (.ask ⟨3, 2, 1, 7, 2⟩) :: []
        ∧ (askFlying 2).line = .active ∧ (askFlying 2).wantsAsk 0 = true ∧ (askFlying 2).streak < 15)
      ∧ (ListOk (goneFlying 2) ∧ ((goneFlying 2).stream 1).gone.isSome = true)
      ∧ (ListOk (freshFlying 2) ∧ ∃ p ∈ (freshFlying 2).pub 1, p.state ≠ .closing)
      ∧ (ListOk (helloFlying .listening .join 0) ∧ (helloFlying .listening .join 0).line = .listening
        ∧ (helloFlying .listening .join 0).bits.left = false)
      ∧ (ListOk closing ∧ { queuedOffer with flight := some queuedParcel } ∈ closing.offers ∧ closing.streak < 15
        ∧ queuedOffer.item = .fresh 1 1 ∧ closing.pub 1 = some { hostPub with state := .closing })
      ∧ (ListOk (rejoined 0) ∧ (rejoined 0).line = .listening ∧ (rejoined 0).bits.left = true ∧ (rejoined 0).streak < 15)
      ∧ (ListOk (helloFlying .offline .join 0) ∧ (helloFlying .offline .join 0).line ≠ .listening)
      ∧ (ListOk (helloFlying .departing .departure 2) ∧ (helloFlying .departing .departure 2).line = .departing)
      ∧ (ListOk (markFlying 3) ∧ flying .mark 3 (.mark 1) ∈ (markFlying 3).offers ∧ (markFlying 3).line = .active
        ∧ ({ markFlying 3 with streak := 14 } : State).streak < 15)
      ∧ (ListOk (askFlying 3) ∧ (askFlying 3).sub 0 = some { holed with repair := ⟨.asking, 0, .stopped⟩ })
      ∧ ListOk (goneFlying 3) ∧ (ListOk (freshFlying 3) ∧ (freshFlying 3).pub 1 = some hostPub)
      ∧ ListOk (helloFlying .active .presence 3)
      ∧ (ListOk (helloFlying .departing .departure 3)
        ∧ ({ helloFlying .departing .departure 3 with streak := 14 } : State).streak < 15) := by
  and_intros <;> decide +kernel
theorem witness_LostAndFailedOutcomes_unwanted :
    (∀ k ∈ [0, 3], ListOk (away (freshFlying k)) ∧ flying (.fresh 1 1) k queuedParcel.body ∈ (freshFlying k).offers
        ∧ (away (freshFlying k)).pub 1 = some hostPub ∧ hostPub.state ≠ .closing ∧ (away (freshFlying k)).streak < 15
        ∧ ListOk (away (markFlying k)) ∧ ListOk { askFlying k with subs := (busy .active).subs }
        ∧ ({ askFlying k with subs := (busy .active).subs } : State).wantsAsk 0 = false
        ∧ ({ askFlying k with subs := (station .active).subs } : State).wantsAsk 0 = false
        ∧ ListOk (away { goneFlying k with streams := (busy .active).streams })
        ∧ ((busy .active).stream 1).gone = none ∧ ListOk (helloFlying .departing .presence k)
        ∧ ListOk (helloFlying (.mute .lineFault) .presence k) ∧ ListOk (helloFlying (.mute .conflict) .departure k))
      ∧ (away (freshFlying 0)).line ≠ .active
      ∧ ({ helloFlying (.mute .lineFault) .presence 3 with streak := 16 } : State).line ≠ .departing := by
  and_intros <;> decide +kernel

/-- The DATA parcel of `running` is on the line for the fourth time, after fifteen failures in a row. -/
def failing : State :=
  { busy .active with streak := 15, offers := [{ queuedOffer with failures := 3, flight := some queuedParcel }] }

theorem failing_sound : Sound failing where
  notices := by decide +kernel
  slots := by decide +kernel
  config := by decide +kernel
  list := by decide +kernel
  wait := by decide +kernel
  markOffer := by decide +kernel
  goneOffer := by decide +kernel
  goneLine := by decide +kernel
  positions := by decide +kernel
  rings := by decide +kernel
  closing := by decide +kernel
  windows := by decide +kernel
  repairs := by decide +kernel
  asks := by decide +kernel
  frame := by decide +kernel
  line := by decide +kernel
  roster := by decide +kernel

/-- `failing` with its publication CLOSING. -/
def failingClosing : State := { failing with streams := closing.streams }

theorem failingClosing_sound : Sound failingClosing where
  notices := by decide +kernel
  slots := by decide +kernel
  config := by decide +kernel
  list := by decide +kernel
  wait := by decide +kernel
  markOffer := by decide +kernel
  goneOffer := by decide +kernel
  goneLine := by decide +kernel
  positions := by decide +kernel
  rings := by decide +kernel
  closing := by decide +kernel
  windows := by decide +kernel
  repairs := by decide +kernel
  asks := by decide +kernel
  frame := by decide +kernel
  line := by decide +kernel
  roster := by decide +kernel

theorem witness_StreakMutes :
    (Sound failing ∧ { queuedOffer with failures := 3, flight := some queuedParcel } ∈ failing.offers
        ∧ 15 ≤ failing.streak ∧ failing.line = .active)
      ∧ Sound failingClosing ∧ failingClosing.pub 1 = some { hostPub with state := .closing } :=
  ⟨⟨failing_sound, by decide +kernel, by decide, rfl⟩, failingClosing_sound, by decide +kernel⟩

/-- The line is idle at an ACTIVE station with a subscription. -/
def hearing (w : Sub) : State := idle (withWindow w)

/-- The origin of `fullSub` has started again: WAITING, its four delivered records kept. -/
def fullWaiting : Sub := { fullSub with state := .waiting, point := none }

theorem witness_DataPlacement :
    ((hearing sub0).hears from3 ∧ (data3 7).consistent = true ∧ WindowsOk (hearing sub0)
        ∧ (hearing sub0).sub 0 = some sub0 ∧ sub0.origin = from3.origin ∧ sub0.stream = (data3 7).stream
        ∧ recordOf from3.origin (data3 7) = peerRecord 7)
      ∧ (WindowsOk (hearing { sub0 with state := .orphaned }) ∧ WindowsOk (hearing (waitingSub .history))
        ∧ (waitingSub .history).state = .waiting ∧ (waitingSub .history).start = .history)
      ∧ (WindowsOk (hearing (waitingSub .live)) ∧ (waitingSub .live).b < (waitingSub .live).size)
      ∧ (sub0.state = .running ∧ sub0.point = some ⟨1, 7⟩ ∧ (data3 7).gen = 1)
      ∧ (sdist 7 (data3 6).seq < 0 ∧ sdist 7 (data3 32775).seq < 0)
      ∧ (0 ≤ sdist 7 (data3 11).seq ∧ sub0.size - sub0.b ≤ dist 7 (data3 11).seq
        ∧ 0 ≤ sdist 7 (data3 32774).seq)
      ∧ (WindowsOk (hearing holed) ∧ dist 7 (data3 8).seq < holed.size - holed.b
        ∧ (holed.at ((holed.p + dist 7 (data3 8).seq) % holed.size)).isHeld = true)
      ∧ (1 ≤ dist 7 (data3 8).seq ∧ dist 7 (data3 10).seq < sub0.size - sub0.b
        ∧ (sub0.at ((sub0.p + dist 7 (data3 10).seq) % sub0.size)).isHeld = false)
      ∧ ((data3 7).seq = 7 ∧ sub0.b < sub0.size ∧ holed.b < holed.size ∧ holed.state = .running
        ∧ WindowsOk (hearing { holed with h := 32767, repair := ⟨.asking, 2, .stopped⟩ }))
      ∧ (WindowsOk (hearing fullWaiting) ∧ fullWaiting.state = .waiting ∧ fullWaiting.start = .live
        ∧ fullWaiting.b = fullWaiting.size)
      ∧ (WindowsOk (hearing fullSub) ∧ fullSub.b = fullSub.size ∧ fullSub.state = .running
        ∧ fullSub.point = some ⟨1, 11⟩)
      ∧ (({ data3 7 with gen := 0 } : DataBody).gen ≠ 1 ∧ genLater 0 1 = false ∧ genLater 129 1 = false)
      ∧ (WindowsOk (hearing stalledSub) ∧ (hearing stalledSub).sub 0 = some stalledSub ∧ stalledSub.state = .stalled
        ∧ stalledSub.point = some ⟨1, 7⟩ ∧ (data3 7).seq = 7 ∧ stalledSub.b < stalledSub.size)
      ∧ genLater ({ data3 7 with gen := 2 } : DataBody).gen 1 = true := by and_intros <;> decide +kernel

/-- A HELLO of peer 3 with one advertisement. -/
def hello3 (a : Advert) : HelloBody := ⟨7, 1, 40, 0, false, [a]⟩

/-- A station with one subscription and no publication, on an idle line. -/
def quiet (l : LineState) (w : Sub) : State := idle (withSub (station l) w)

/-- The peer of the subscription has given other identifiers before. -/
def restarted (w : Sub) : State :=
  { quiet .active w with roster := (quiet .active w).roster.set 2 { heardEntry with identity := some ⟨7, 0⟩ } }

theorem witness_HelloActsOnPeer :
    (∀ w ∈ [sub0, holed, { holed with policy := .stall }, stalledSub, waitingSub .live, waitingSub .history,
          { sub0 with state := .orphaned }],
        (quiet .active w).hears from3 ∧ ((quiet .active w).peer 3).identity = none ∧ WindowsOk (quiet .active w)
          ∧ RepairsOk (quiet .active w) ∧ AsksOk (quiet .active w) ∧ RingsOk (quiet .active w)
          ∧ PositionsOk (quiet .active w) ∧ MarkOfferOk (quiet .active w))
      ∧ (∀ a ∈ [(⟨2, 1, some (7, 9)⟩ : Advert), ⟨2, 0, none⟩, ⟨2, 2, none⟩, ⟨5, 1, none⟩],
        (Body.hello (hello3 a)).passes = true)
      ∧ (Body.hello { hello3 ⟨2, 1, none⟩ with departing := true }).passes = true
      ∧ ((quiet .listening sub0).hears from3 ∧ ((quiet .listening sub0).peer 3).identity = none
        ∧ WindowsOk (quiet .listening sub0) ∧ RepairsOk (quiet .listening sub0) ∧ AsksOk (quiet .listening sub0)
        ∧ RingsOk (quiet .listening sub0) ∧ PositionsOk (quiet .listening sub0) ∧ MarkOfferOk (quiet .listening sub0)
        ∧ (quiet .listening sub0).line = .listening ∧ later (hello3 ⟨2, 1, none⟩).mark (quiet .listening sub0).markNo = true)
      ∧ ((restarted holed).hears from3 ∧ WindowsOk (restarted holed) ∧ RepairsOk (restarted holed)
        ∧ AsksOk (restarted holed) ∧ RingsOk (restarted holed) ∧ PositionsOk (restarted holed)
        ∧ MarkOfferOk (restarted holed) ∧ ((restarted holed).peer 3).identity = some ⟨7, 0⟩
        ∧ (⟨7, 0⟩ : Identity) ≠ ⟨(hello3 ⟨2, 1, none⟩).unit, (hello3 ⟨2, 1, none⟩).token⟩
        ∧ (hello3 ⟨2, 1, none⟩).adverts.find? (fun y => decide (y.stream = holed.stream)) = some ⟨2, 1, none⟩
        ∧ (hello3 ⟨5, 1, none⟩).adverts.find? (fun y => decide (y.stream = holed.stream)) = none) := by
  and_intros <;> decide +kernel

/-- A HELLO of the own address. -/
def echo : Parcel := ⟨⟨3, 9, 9⟩, .hello ⟨8, 8, 0, 1, true, []⟩⟩

theorem witness_PresenceAndConflict :
    (∀ x ∈ [PeerState.unknown, .gone, .silent], ∀ l ∈ [LineState.listening, .active, .departing, .mute .conflict],
        (idle (peer3 (busy l) x)).canReceive = true ∧ AsksOk (idle (peer3 (busy l) x))
          ∧ RepairsOk (idle (peer3 (busy l) x)) ∧ ((peer3 (busy l) x).peer 3).state = x ∧ (3 : Addr) ≠ (busy l).ownAddr)
      ∧ (∀ b ∈ [Body.mark 1, .data (data3 7), .ask ⟨9, 1, 1, 0, 16⟩, .gone ⟨2, 1, 7, 9⟩,
        .hello ⟨7, 1, 40, 20, false, []⟩], (Parcel.mk from3 b).passes = true)
      ∧ ((idle (peer3 (busy .listening) .gone)).canReceive = true ∧ from3.passes = true
        ∧ from3.origin ≠ (peer3 (busy .listening) .gone).ownAddr ∧ later 0 (busy .listening).markNo = false
        ∧ AsksOk (idle (peer3 (busy .listening) .gone)) ∧ RepairsOk (idle (peer3 (busy .listening) .gone))
        ∧ ((peer3 (busy .listening) .gone).peer 3).state = .gone)
      ∧ (AsksOk (idle (peer3 (busy .listening) .unknown)) ∧ RepairsOk (idle (peer3 (busy .listening) .unknown))
        ∧ ((peer3 (busy .listening) .unknown).peer 3).state = .unknown)
      ∧ (AsksOk (idle (peer3 (busy .listening) .silent)) ∧ RepairsOk (idle (peer3 (busy .listening) .silent))
        ∧ ((peer3 (busy .listening) .silent).peer 3).state = .silent)
      ∧ ((quiet .listening sub0).hears from3 ∧ (quiet .listening sub0).line = .listening
        ∧ later 0 (quiet .listening sub0).markNo = false ∧ later 1 (quiet .listening sub0).markNo = true
        ∧ later 32767 (quiet .listening sub0).markNo = true ∧ RingsOk (quiet .listening sub0)
        ∧ PositionsOk (quiet .listening sub0) ∧ MarkOfferOk (quiet .listening sub0))
      ∧ (echo.passes = true ∧ echo.header.origin = (busy .active).ownAddr)
      ∧ (idle (busy (.mute .conflict))).canReceive = true ∧ (idle (busy (.mute .lineFault))).canReceive = true
      ∧ (idle (busy .departing)).canReceive = true ∧ (idle (busy .active)).canReceive = true := by and_intros <;> decide +kernel

/-- An ASK to station 9 for stream 1. -/
def askMe (gen : Gen) (first : Seq) (count : Byte) : AskBody := ⟨9, 1, gen, first, count⟩

/-- An ASK to peer 3 for stream 2. -/
def askThem (first : Seq) (count : Byte) : AskBody := ⟨3, 2, 1, first, count⟩

theorem witness_AsksHeard :
    ((idle (busy .departing)).hears from3 ∧ (Body.ask (askMe 1 0 16)).passes = true
        ∧ (askMe 1 0 16).target.toNat = (busy .departing).ownAddr.toNat ∧ GoneOfferOk (idle (busy .departing))
        ∧ (busy .departing).line ≠ .active)
      ∧ ((idle (offering .active)).hears from3 ∧ (Body.ask (askMe 0 65535 1)).passes = true
        ∧ GoneOfferOk (idle (offering .active)) ∧ (∀ p ∈ (offering .active).pub 1, p.state = .closing ∨ p.gen ≠ 0))
      ∧ ((goneFlying 0).line = .active ∧ GoneOfferOk { goneFlying 0 with lineIdle := true })
      ∧ (RingsOk (idle (offering .active)) ∧ PositionsOk (idle (offering .active))
        ∧ (offering .active).pub 1 = some hostPub ∧ hostPub.state ≠ .closing ∧ hostPub.gen = (askMe 1 65535 16).gen)
      ∧ ((hearing holed).hears from3 ∧ (Body.ask (askThem 7 1)).passes = true ∧ WindowsOk (hearing holed)
        ∧ (hearing holed).sub 0 = some holed ∧ (askThem 7 1).target.toNat = holed.origin.toNat
        ∧ holed.point = some ⟨1, 7⟩ ∧ holed.state = .running ∧ holed.hasHole = true
        ∧ dist (askThem 7 1).first 7 < (askThem 7 1).count.toNat)
      ∧ ¬dist (askThem 6 1).first 7 < (askThem 6 1).count.toNat
      ∧ dist (askThem 65528 16).first 7 < (askThem 65528 16).count.toNat := by and_intros <;> decide +kernel

theorem witness_GoneAbandonsHoles :
    ((hearing holed).hears from3 ∧ (Body.gone ⟨2, 1, 7, 7⟩).passes = true ∧ WindowsOk (hearing holed)
        ∧ (hearing holed).sub 0 = some holed ∧ holed.origin = from3.origin ∧ holed.point = some ⟨1, 7⟩
        ∧ holed.state = .running ∧ holed.hasHole = true ∧ inRun 7 7 7 = true ∧ holed.policy ≠ .stall)
      ∧ (WindowsOk (hearing { holed with policy := .stall })
        ∧ RepairsOk (hearing { holed with policy := .stall })
        ∧ (hearing { holed with policy := .stall }).sub 0 = some { holed with policy := .stall })
      ∧ (RepairsOk (hearing holed) ∧ WindowsOk (hearing stalledSub) ∧ RepairsOk (hearing stalledSub)
        ∧ (hearing stalledSub).sub 0 = some stalledSub ∧ stalledSub.state = .stalled)
      ∧ (WindowsOk { askFlying 0 with lineIdle := true } ∧ RepairsOk { askFlying 0 with lineIdle := true })
      ∧ inRun 8 9 7 = false ∧ inRun 5 6 7 = false ∧ sub0.hasHole = false := by and_intros <;> decide +kernel
/-- `busy` waiting for the idle condition, with some recessive bits read. -/
def waitingIdle (n : Nat) : State := { busy .active with bits := ⟨n, 0, none, false⟩ }

/-- `busy` within a parcel of a peer, the start bit read. -/
def assembling : State :=
  { busy .active with assembling := true, bits := ⟨0, 0, some ⟨false, 1, [], none⟩, false⟩ }

theorem witness_ReceptionEnds_bits :
    ((idle (busy .active)).line.receives = true ∧ (idle (busy .active)).offers = []
        ∧ exec .parcelStart (idle (busy .active)) = .next (idle (busy .active)) ∧ (idle (busy .active)).lineIdle = true)
      ∧ (exec .parcelStart (waitingIdle 9) = .next (waitingIdle 9) ∧ (waitingIdle 9).lineIdle = false
        ∧ (waitingIdle 9).assembling = false ∧ (waitingIdle 9).bits.recessive = 9 ∧ (waitingIdle 8).bits.recessive < 9)
      ∧ (exec .parcelStart { waitingIdle 8 with assembling := true } = .next { waitingIdle 8 with assembling := true }
        ∧ ({ waitingIdle 8 with assembling := true } : State).bits.rx = none)
      ∧ (exec .parcelStart assembling = .next assembling ∧ assembling.lineIdle = false
        ∧ assembling.bits.rx = some ⟨false, 1, [], none⟩
        ∧ (⟨false, 1, [], none⟩ : Rx).step true = (⟨true, 1, [true], none⟩, .unfinished))
      ∧ (busy .offline).offers = [] ∧ (busy .offline).line.receives = false
      ∧ ((driving 0).line.receives = true ∧ (driving 0).bits.left = false ∧ (driving 0).bits.driven = 0)
      ∧ 1 ≤ (driving 1).bits.driven ∧ (driving 1).bits.rx = none
      ∧ ({ driving 1 with bits := ⟨0, 1, some ⟨false, 1, [], none⟩, false⟩ } : State).bits.rx =
          some ⟨false, 1, [], none⟩ := by
  and_intros <;> first | rfl | decide +kernel
theorem witness_ReceptionEnds :
    (busy .active).canReceive = false ∧ (idle (busy .active)).canReceive = true
      ∧ (Parcel.mk ⟨1, 3, 63⟩ (.mark 41)).passes = false ∧ Filter.accept [1, 2, 3] = none
      ∧ Filter.accept echo.withCrc = some echo
      ∧ ((busy .listening).line = .listening ∧ ∀ o ∈ (busy .listening).offers, o.inFlight = false)
      ∧ (busy .offline).line = .offline ∧ State.reset.line = .unconfigured
      ∧ ∃ o ∈ onLine.offers, o.inFlight = true := by decide +kernel

/-- A DATA parcel with thirty-two samples. -/
def longData : Parcel :=
  ⟨⟨2, 63, 62⟩, .data { data3 65535 with samples := List.replicate 32 0xFFFF }⟩

theorem witness_ParcelsReadBack : longData.passes = true ∧ echo.passes = true := by decide +kernel
theorem witness_ContentionLowestWins :
    ((⟨0, 63, 62⟩ : Header).cls ++ (⟨0, 63, 62⟩ : Header).rank ++ (⟨0, 63, 62⟩ : Header).origin : BitVec 14).toNat
        < (echo.header.cls ++ echo.header.rank ++ echo.header.origin : BitVec 14).toNat
      ∧ echo.header = (ownHello true).header := by decide +kernel
theorem witness_CommandBytesReadBack :
    (Instr.put 15 32 (List.replicate 32 0xFFFF)).wellFormed = true
      ∧ (encodeCommand (.put 15 32 (List.replicate 32 0xFFFF))).isSome = true
      ∧ (Instr.unknownCode 0xFF).wellFormed = true ∧ encodeCommand (.unknownCode 0xFF) = some [0xFF] := by
  decide +kernel

end Sys2Proof.Tests
end

section
/-! SUPPORT. Where the slots are: the free list and the list of lent slots. What a write to one stream number or one
handle does to them, and the operations on windows, rings, offers, marks, the line and the roster that leave them
(R5, R6). -/

namespace Sys2Proof.Machine

set_option Elab.async false

open Sys2Proof

/-! ### The places of a state -/

/-- R5: the free list, and the slots lent to rings and windows. -/
def State.slotPlaces (s : State) : List Nat × List Nat := (s.freeSlots, s.lent)

theorem State.slotPlaces_eq_iff (s t : State) :
    t.slotPlaces = s.slotPlaces ↔ t.freeSlots = s.freeSlots ∧ t.lent = s.lent := Prod.mk_inj

/-- The places depend on three fields alone. -/
theorem State.slotPlaces_congr {s t : State} (hfree : t.freeSlots = s.freeSlots) (hstreams : t.streams = s.streams)
    (hsubs : t.subs = s.subs) : t.slotPlaces = s.slotPlaces := by
  simp only [State.slotPlaces, State.lent, hfree, hstreams, hsubs]

/-- An update of other fields leaves the places. -/
theorem State.slotPlaces_update {s t u : State} (h : t.slotPlaces = s.slotPlaces)
    (hfree : u.freeSlots = t.freeSlots := by dsimp only) (hstreams : u.streams = t.streams := by dsimp only)
    (hsubs : u.subs = t.subs := by dsimp only) : u.slotPlaces = s.slotPlaces :=
  (State.slotPlaces_congr hfree hstreams hsubs).trans h

/-- R8: the sum of R8 counts the slots of all places. -/
theorem State.slotTotal_eq_length (s : State) : s.slotTotal = (s.freeSlots ++ s.lent).length := by
  simp only [State.slotTotal, State.freeCount, State.lent, List.length_append, List.length_flatMap]
  omega

/-! ### Writing one place of a list of lenders -/

/-- An entry replaced by one that lends the same slots leaves the list of lent slots. -/
theorem flatMap_set_of_eq {α β : Type} (f : α → List β) (l : List α) (i : Nat) (x : α) (hi : i < l.length)
    (h : f x = f l[i]) : (l.set i x).flatMap f = l.flatMap f := by
  rw [List.flatMap_def, List.flatMap_def, List.map_set, h, ← List.getElem_map f (h := by simpa using hi),
    List.set_getElem_self]

/-- An entry replaced: what the old one lent goes, and what the new one lends comes. -/
theorem flatMap_set_perm {α β : Type} (f : α → List β) (l : List α) (i : Nat) (x : α) (hi : i < l.length) :
    (f l[i] ++ (l.set i x).flatMap f).Perm (f x ++ l.flatMap f) := by
  induction l generalizing i with
  | nil => cases hi
  | cons y ys ih =>
    cases i with
    | zero =>
      simp only [List.getElem_cons_zero, List.set_cons_zero, List.flatMap_cons, ← List.append_assoc]
      exact List.perm_append_comm.append_right _
    | succ i =>
      simp only [List.getElem_cons_succ, List.set_cons_succ, List.flatMap_cons]
      have step := (ih i (by simpa using hi)).append_left (f y)
      exact (List.perm_append_comm_assoc _ _ _).trans (step.trans (List.perm_append_comm_assoc _ _ _))

/-- A stream number rewritten with the same ring leaves the lent slots. -/
theorem State.setStream_lent {s : State} {n : StreamNo} {r : StreamRec} (h : r.lent = (s.stream n).lent) :
    (s.setStream n r).lent = s.lent := by
  simp only [State.lent, State.setStream, Vector.toList_set]
  rw [flatMap_set_of_eq StreamRec.lent _ n.val r (by simp) (by simpa [State.stream] using h)]

/-- A handle rewritten with the same window leaves the lent slots. -/
theorem State.setSub_lent {s : State} {h : SubHandle} {w : Option Sub} (e : lentToSub w = lentToSub (s.sub h)) :
    (s.setSub h w).lent = s.lent := by
  simp only [State.lent, State.setSub, Vector.toList_set]
  rw [flatMap_set_of_eq lentToSub _ h.val w (by simp) (by simpa [State.sub] using e)]

/-- A stream number rewritten: its old ring goes and its new one comes. -/
theorem State.setStream_lent_perm (s : State) (n : StreamNo) (r : StreamRec) :
    ((s.stream n).lent ++ (s.setStream n r).lent).Perm (r.lent ++ s.lent) := by
  have p := flatMap_set_perm StreamRec.lent s.streams.toList n.val r (by simp)
  simp only [State.lent, State.setStream, Vector.toList_set, ← List.append_assoc]
  exact List.Perm.append_right _ (by simpa [State.stream] using p)

/-- A handle rewritten: its old window goes and its new one comes. -/
theorem State.setSub_lent_perm (s : State) (h : SubHandle) (w : Option Sub) :
    (lentToSub (s.sub h) ++ (s.setSub h w).lent).Perm (lentToSub w ++ s.lent) := by
  have p := flatMap_set_perm lentToSub s.subs.toList h.val w (by simp)
  simp only [State.lent, State.setSub, Vector.toList_set]
  exact (List.perm_append_comm_assoc _ _ _).trans
    (((by simpa [State.sub] using p : List.Perm _ _).append_left _).trans (List.perm_append_comm_assoc _ _ _))

/-! ### Windows keep their slots (R6) -/

@[simp] theorem Sub.advance_handles (w : Sub) : w.advance.handles = w.handles := rfl

@[simp] theorem Sub.countLost_handles (w : Sub) : w.countLost.handles = w.handles := rfl

@[simp] theorem Sub.passStep_handles (w : Sub) : w.passStep.handles = w.handles := rfl

@[simp] theorem Sub.discard_handles (w : Sub) (n : Nat) : (w.discard n).handles = w.handles := rfl

@[simp] theorem Sub.raise_handles (w : Sub) (n : Nat) : (w.raise n).handles = w.handles := rfl

@[simp] theorem Sub.startAt_handles (w : Sub) (g : Gen) (n : Seq) (h : Int) : (w.startAt g n h).handles = w.handles :=
  rfl

@[simp] theorem Sub.deliveryRun_handles (w : Sub) : w.deliveryRun.handles = w.handles := (Sub.deliver_fixed _ w).1

@[simp] theorem Sub.trimTail_handles (w : Sub) : w.trimTail.handles = w.handles := by
  obtain ⟨j, -, -, e⟩ := Sub.trim_eq w.b w
  rw [Sub.trimTail, e]
  rfl

@[simp] theorem Sub.fillStep_handles (w : Sub) (q : Point) : (w.fillStep q).handles = w.handles := by
  simp [Sub.fillStep]

@[simp] theorem Sub.skipStep_handles (w : Sub) : w.skipStep.handles = w.handles := by
  simp [Sub.skipStep]

@[simp] theorem Sub.giveUp_handles (w : Sub) (q : Point) (fill : Bool) : (w.giveUp q fill).handles = w.handles := by
  unfold Sub.giveUp
  split
  · simp
  · split <;> simp

@[simp] theorem Sub.place_handles (w : Sub) (n : Seq) (r : Record) : (w.place n r).handles = w.handles := by
  unfold Sub.place
  split
  · simp
  · simp
  · simp
  · dsimp only
    split <;> simp

@[simp] theorem Sub.dropHeld_handles (w : Sub) : w.dropHeld.handles = w.handles := by
  simp [Sub.dropHeld, Sub.handles, Sub.discard]

@[simp] theorem Sub.liftStall_handles (w : Sub) (moved : Bool) : (w.liftStall moved).handles = w.handles := by
  unfold Sub.liftStall
  split <;> rfl

@[simp] theorem Sub.releaseAt_handles (w : Sub) (i : Nat) : (w.releaseAt i).handles = w.handles := by
  simp [Sub.releaseAt]

/-- R48: a new window has the slots it is lent. -/
@[simp] theorem newSub_handles (a : Addr) (n : StreamNo) (pol : GapPolicy) (st : SubStart) (handles : List Nat) :
    (newSub a n pol st handles).handles = handles := by
  simp [newSub, Sub.handles, Function.comp_def]

/-! ### Rings keep their slots (R6) -/

@[simp] theorem Pub.setPos_handles (p : Pub) (i : Nat) (f : PosState → PosState) :
    (p.setPos i f).handles = p.handles := by
  simp only [Pub.setPos, Pub.handles]
  apply List.ext_getElem <;> simp [List.getElem_modify]
  intro j hj
  split <;> rfl

@[simp] theorem Pub.sealed_handles (p : Pub) (l : LineState) (r : Record) : (p.sealed l r).handles = p.handles :=
  p.setPos_handles p.target fun _ => if l = .active then .queued r else .sent r

@[simp] theorem Pub.offerDone_handles (p : Pub) (i : Nat) (resend : Bool) :
    (p.offerDone i resend).handles = p.handles := by
  have h := Pub.setPos_handles p i PosState.toSent
  unfold Pub.offerDone
  dsimp only
  split <;> exact h

@[simp] theorem Pub.adopt_handles (p : Pub) : p.adopt.handles = p.handles := rfl

/-- R13: a new ring has the slots it is lent. -/
@[simp] theorem newPub_handles (src : Source) (st : PubStart) (mask : Byte) (k d : Nat) (g : Gen) (handles : List Nat) :
    (newPub src st mask k d g handles).handles = handles := by
  simp [newPub, Pub.handles, Function.comp_def]

/-- R5: a stream number with a publication lends its ring. -/
theorem StreamRec.lent_of_pub {r : StreamRec} {p : Pub} (h : r.pub = some p) : r.lent = p.handles := by
  simp only [StreamRec.lent, h]

/-- R5: a stream number without a publication lends nothing. -/
theorem StreamRec.lent_of_no_pub {r : StreamRec} (h : r.pub = none) : r.lent = [] := by
  simp only [StreamRec.lent, h]

/-! ### Primitive updates of the state -/

@[simp] theorem State.post_slotPlaces (s : State) (k : NoticeKind) (o : NoticeObject) (d : Word16) :
    (s.post k o d).slotPlaces = s.slotPlaces := rfl

@[simp] theorem State.respond_slotPlaces (s : State) (r : Response) : (s.respond r).slotPlaces = s.slotPlaces := rfl

@[simp] theorem State.withdrawWhere_slotPlaces (s : State) (f : OfferItem → Bool) :
    (s.withdrawWhere f).slotPlaces = s.slotPlaces := rfl

@[simp] theorem State.withdraw_slotPlaces (s : State) (i : OfferItem) : (s.withdraw i).slotPlaces = s.slotPlaces := rfl

@[simp] theorem State.withdrawAsk_slotPlaces (s : State) (h : SubHandle) :
    (s.withdrawAsk h).slotPlaces = s.slotPlaces := rfl

@[simp] theorem State.withdrawHello_slotPlaces (s : State) (x : HelloSort) :
    (s.withdrawHello x).slotPlaces = s.slotPlaces := rfl

@[simp] theorem State.postLine_slotPlaces (s : State) : s.postLine.slotPlaces = s.slotPlaces := rfl

@[simp] theorem State.fallBack_slotPlaces (s : State) : s.fallBack.slotPlaces = s.slotPlaces := rfl

@[simp] theorem State.removeFlying_slotPlaces (s : State) : s.removeFlying.slotPlaces = s.slotPlaces := rfl

@[simp] theorem State.landFlying_slotPlaces (s : State) (n : Nat) : (s.landFlying n).slotPlaces = s.slotPlaces := rfl

@[simp] theorem State.endReception_slotPlaces (s : State) : s.endReception.slotPlaces = s.slotPlaces := rfl

@[simp] theorem State.addOffer_slotPlaces (s : State) (i : OfferItem) : (s.addOffer i).slotPlaces = s.slotPlaces :=
  State.slotPlaces_congr (by simp) (by simp) (by simp)

@[simp] theorem State.announce_slotPlaces (s : State) : s.announce.slotPlaces = s.slotPlaces :=
  State.slotPlaces_congr (by simp) (by simp) (by simp)

@[simp] theorem State.setPeer_slotPlaces (s : State) (a : Addr) (e : PeerEntry) :
    (s.setPeer a e).slotPlaces = s.slotPlaces :=
  State.slotPlaces_congr (by simp) (by simp) (by simp)

@[simp] theorem State.becomesIdle_slotPlaces (s : State) : s.becomesIdle.slotPlaces = s.slotPlaces :=
  State.slotPlaces_congr (by simp) (by simp) (by simp)

@[simp] theorem State.receptionBreaks_slotPlaces (s : State) : s.receptionBreaks.slotPlaces = s.slotPlaces :=
  State.slotPlaces_congr (by simp) (by simp) (by simp)

/-- A window rewritten with its own slots leaves the places. -/
theorem State.setSub_slotPlaces {s : State} {h : SubHandle} {w v : Sub} (hw : s.sub h = some w)
    (e : v.handles = w.handles) : (s.setSub h (some v)).slotPlaces = s.slotPlaces := by
  rw [State.slotPlaces_eq_iff]
  exact ⟨rfl, State.setSub_lent (by rw [hw]; exact e)⟩

theorem State.modSub_slotPlaces (s : State) (h : SubHandle) {f : Sub → Sub} (hf : ∀ w, (f w).handles = w.handles) :
    (s.modSub h f).slotPlaces = s.slotPlaces := by
  unfold State.modSub
  split
  · next w hw => exact State.setSub_slotPlaces hw (hf w)
  · rfl

/-- A ring rewritten with its own slots leaves the places. -/
theorem State.setPub_slotPlaces {s : State} {n : StreamNo} {p q : Pub} (hp : s.pub n = some p)
    (e : q.handles = p.handles) : (s.setPub n (some q)).slotPlaces = s.slotPlaces := by
  rw [State.slotPlaces_eq_iff]
  refine ⟨rfl, State.setStream_lent ?_⟩
  rw [StreamRec.lent_of_pub hp]
  exact e

theorem State.modPub_slotPlaces (s : State) (n : StreamNo) {f : Pub → Pub} (hf : ∀ p, (f p).handles = p.handles) :
    (s.modPub n f).slotPlaces = s.slotPlaces := by
  unfold State.modPub
  split
  · next p hp => exact State.setPub_slotPlaces hp (hf p)
  · rfl

@[simp] theorem State.setGone_slotPlaces (s : State) (n : StreamNo) (g : Option GoneRange) :
    (s.setGone n g).slotPlaces = s.slotPlaces := by
  rw [State.slotPlaces_eq_iff]
  exact ⟨rfl, State.setStream_lent rfl⟩

/-- Running an operation that leaves the places at one index after another leaves them. -/
theorem State.foldl_slotPlaces {α : Type} {f : State → α → State} (hf : ∀ s x, (f s x).slotPlaces = s.slotPlaces)
    (l : List α) (s : State) : (l.foldl f s).slotPlaces = s.slotPlaces := by
  induction l generalizing s with
  | nil => rfl
  | cons x l ih => exact (ih _).trans (hf s x)

/-- A choice between two ways that leave the places leaves them. -/
theorem State.ite_slotPlaces {c : Prop} [Decidable c] {s t u : State} (ht : t.slotPlaces = s.slotPlaces)
    (hu : u.slotPlaces = s.slotPlaces) : (if c then t else u).slotPlaces = s.slotPlaces := by
  split
  · exact ht
  · exact hu

/-! ### Repair machines leave the places -/

@[simp] theorem State.setRepair_slotPlaces (s : State) (h : SubHandle) (r : Repair) :
    (s.setRepair h r).slotPlaces = s.slotPlaces := State.modSub_slotPlaces s h fun _ => rfl

@[simp] theorem State.moveRepair_slotPlaces (s : State) (h : SubHandle) (x : RepairState) (t : RepairTimer) :
    (s.moveRepair h x t).slotPlaces = s.slotPlaces := State.modSub_slotPlaces s h fun _ => rfl

@[simp] theorem State.clearAttempts_slotPlaces (s : State) (h : SubHandle) :
    (s.clearAttempts h).slotPlaces = s.slotPlaces := State.modSub_slotPlaces s h fun _ => rfl

@[simp] theorem State.forgetHorizon_slotPlaces (s : State) (h : SubHandle) :
    (s.forgetHorizon h).slotPlaces = s.slotPlaces := State.modSub_slotPlaces s h fun _ => rfl

@[simp] theorem State.repairByHole_slotPlaces (s : State) (h : SubHandle) :
    (s.repairByHole h).slotPlaces = s.slotPlaces := by
  unfold State.repairByHole
  split
  · split
    · split <;> simp
    · simp
  · rfl

@[simp] theorem State.toldHole_slotPlaces (s : State) (h : SubHandle) : (s.toldHole h).slotPlaces = s.slotPlaces := by
  unfold State.toldHole
  split
  · split <;> simp
  · rfl

@[simp] theorem State.toldAdvanced_slotPlaces (s : State) (h : SubHandle) :
    (s.toldAdvanced h).slotPlaces = s.slotPlaces := by
  unfold State.toldAdvanced
  split
  · dsimp only
    split
    · split <;> simp
    · split <;> simp
  · rfl

@[simp] theorem State.toldStalled_slotPlaces (s : State) (h : SubHandle) :
    (s.toldStalled h).slotPlaces = s.slotPlaces := by simp [State.toldStalled]

@[simp] theorem State.toldIdle_slotPlaces (s : State) (h : SubHandle) : (s.toldIdle h).slotPlaces = s.slotPlaces := by
  simp [State.toldIdle]

@[simp] theorem State.toldResumed_slotPlaces (s : State) (h : SubHandle) :
    (s.toldResumed h).slotPlaces = s.slotPlaces := by simp [State.toldResumed]

@[simp] theorem State.toldResync_slotPlaces (s : State) (h : SubHandle) :
    (s.toldResync h).slotPlaces = s.slotPlaces := by simp [State.toldResync]

@[simp] theorem State.parkRepair_slotPlaces (s : State) (h : SubHandle) :
    (s.parkRepair h).slotPlaces = s.slotPlaces := by
  unfold State.parkRepair
  split
  · split <;> simp
  · rfl

@[simp] theorem State.unparkRepair_slotPlaces (s : State) (h : SubHandle) :
    (s.unparkRepair h).slotPlaces = s.slotPlaces := by
  unfold State.unparkRepair
  split
  · split <;> simp
  · rfl

@[simp] theorem State.parkRepairs_slotPlaces (s : State) : s.parkRepairs.slotPlaces = s.slotPlaces :=
  State.foldl_slotPlaces State.parkRepair_slotPlaces _ s

@[simp] theorem State.unparkRepairs_slotPlaces (s : State) : s.unparkRepairs.slotPlaces = s.slotPlaces :=
  State.foldl_slotPlaces State.unparkRepair_slotPlaces _ s

@[simp] theorem State.suppress_slotPlaces (s : State) (h : SubHandle) (a : AskBody) :
    (s.suppress h a).slotPlaces = s.slotPlaces := by
  unfold State.suppress
  split
  · split
    · split
      · simp
      · split <;> simp
      all_goals simp
    · rfl
  · rfl

@[simp] theorem State.askDelayExpires_slotPlaces (s : State) (h : SubHandle) :
    (s.askDelayExpires h).slotPlaces = s.slotPlaces := by
  unfold State.askDelayExpires
  split
  · split
    · split
      · simp
      · split <;> simp
    · rfl
  · rfl

@[simp] theorem State.askDone_slotPlaces (s : State) (h : SubHandle) : (s.askDone h).slotPlaces = s.slotPlaces := by
  unfold State.askDone
  split
  · split <;> simp
  · rfl

/-! ### The subscription engine leaves the places -/

@[simp] theorem State.endEvent_slotPlaces (s : State) (h : SubHandle) (n : Nat) :
    (s.endEvent h n).slotPlaces = s.slotPlaces := State.ite_slotPlaces rfl rfl

/-- R56: an event leaves the places that its operation leaves. -/
theorem State.event_slotPlaces {s : State} {f : State → State} (h : SubHandle) (hf : (f s).slotPlaces = s.slotPlaces) :
    (s.event h f).slotPlaces = s.slotPlaces := (State.endEvent_slotPlaces _ _ _).trans hf

@[simp] theorem State.giveUp_slotPlaces (s : State) (h : SubHandle) (fill : Bool) :
    (s.giveUp h fill).slotPlaces = s.slotPlaces := by
  unfold State.giveUp
  split
  · next w hw =>
    split
    · next q _ =>
      have lifted (x : Bool) : (s.setSub h (some ((w.giveUp q fill).liftStall x))).slotPlaces = s.slotPlaces :=
        State.setSub_slotPlaces hw (by simp)
      exact State.ite_slotPlaces (by simp [lifted]) (by simp [lifted])
    · rfl
  · rfl

@[simp] theorem State.stallStep_slotPlaces (s : State) (h : SubHandle) :
    (s.stallStep h).slotPlaces = s.slotPlaces := by
  unfold State.stallStep
  split
  · next w hw =>
    split
    · refine State.ite_slotPlaces ?_ rfl
      rw [State.toldStalled_slotPlaces, State.post_slotPlaces]
      exact State.setSub_slotPlaces hw rfl
    · rfl
  · rfl

@[simp] theorem State.abandon_slotPlaces (s : State) (h : SubHandle) : (s.abandon h).slotPlaces = s.slotPlaces := by
  unfold State.abandon
  split
  · split <;> simp
  · rfl

theorem State.abandonWhile_slotPlaces (h : SubHandle) (go : Sub → Bool) {f : State → State}
    (hf : ∀ t, (f t).slotPlaces = t.slotPlaces) (n : Nat) (s : State) :
    (s.abandonWhile h go f n).slotPlaces = s.slotPlaces := by
  induction n generalizing s with
  | zero => rfl
  | succ n ih =>
    unfold State.abandonWhile
    split
    · exact State.ite_slotPlaces (State.ite_slotPlaces (hf s) ((ih _).trans (hf s))) rfl
    · rfl

@[simp] theorem State.abandonWindow_slotPlaces (s : State) (h : SubHandle) :
    (s.abandonWindow h).slotPlaces = s.slotPlaces := by
  unfold State.abandonWindow
  split
  · split
    · exact State.abandonWhile_slotPlaces h _ (fun t => t.abandon_slotPlaces h) _ s
    · rfl
  · rfl

@[simp] theorem State.placeRecord_slotPlaces (s : State) (h : SubHandle) (r : Record) :
    (s.placeRecord h r).slotPlaces = s.slotPlaces := by
  unfold State.placeRecord
  split
  · next w hw =>
    split
    · next q _ =>
      extract_lets v moved t u x
      have ht : t.slotPlaces = s.slotPlaces := State.setSub_slotPlaces hw (by simp [v])
      have hu : u.slotPlaces = s.slotPlaces := State.ite_slotPlaces (by simp [ht]) ht
      have hx : x.slotPlaces = s.slotPlaces := State.ite_slotPlaces (by simp [hu]) hu
      exact State.ite_slotPlaces (by simp [hx]) hx
    · rfl
  · rfl

@[simp] theorem State.resync_slotPlaces (s : State) (h : SubHandle) (g : Gen) (n : Seq) (hz : Int) :
    (s.resync h g n hz).slotPlaces = s.slotPlaces := by
  rw [State.resync, State.toldResync_slotPlaces, State.post_slotPlaces]
  exact State.modSub_slotPlaces s h (by simp)

@[simp] theorem State.dataAt_slotPlaces (s : State) (h : SubHandle) (r : Record) :
    (s.dataAt h r).slotPlaces = s.slotPlaces := by
  unfold State.dataAt
  split
  · next w hw =>
    have kept (v : Sub) (e : v.handles = w.handles) : (s.setSub h (some v)).slotPlaces = s.slotPlaces :=
      State.setSub_slotPlaces hw e
    split
    · exact kept _ rfl
    · refine State.ite_slotPlaces ?_ (kept _ rfl)
      rw [State.placeRecord_slotPlaces, State.toldResync_slotPlaces]
      exact kept _ rfl
    · exact State.ite_slotPlaces (by simp) (State.ite_slotPlaces (by simp) (kept _ rfl))
    · rfl
  · rfl

@[simp] theorem State.dataArrives_slotPlaces (s : State) (h : SubHandle) (r : Record) :
    (s.dataArrives h r).slotPlaces = s.slotPlaces := State.event_slotPlaces h (s.dataAt_slotPlaces h r)

@[simp] theorem State.advertised_slotPlaces (s : State) (h : SubHandle) (a : Advert) :
    (s.advertised h a).slotPlaces = s.slotPlaces := by
  unfold State.advertised
  split
  · next w hw =>
    have kept (v : Sub) (e : v.handles = w.handles) : (s.setSub h (some v)).slotPlaces = s.slotPlaces :=
      State.setSub_slotPlaces hw e
    dsimp only
    split
    · rfl
    · exact (State.toldResync_slotPlaces _ h).trans (kept _ rfl)
    · split
      · split
        · exact State.ite_slotPlaces rfl
            (State.ite_slotPlaces ((State.toldHole_slotPlaces _ h).trans (kept _ rfl)) (kept _ rfl))
        · rfl
      · exact State.ite_slotPlaces (by simp) rfl
    · rfl
  · rfl

@[simp] theorem State.notListed_slotPlaces (s : State) (h : SubHandle) :
    (s.notListed h).slotPlaces = s.slotPlaces := by
  unfold State.notListed
  split
  · exact State.ite_slotPlaces (by simp) rfl
  · rfl

@[simp] theorem State.restarted_slotPlaces (s : State) (h : SubHandle) :
    (s.restarted h).slotPlaces = s.slotPlaces := by
  unfold State.restarted
  split
  · next w hw =>
    refine State.ite_slotPlaces rfl ?_
    rw [State.toldIdle_slotPlaces]
    exact State.setSub_slotPlaces hw w.dropHeld_handles
  · rfl

@[simp] theorem State.goneHoles_slotPlaces (s : State) (h : SubHandle) :
    (s.goneHoles h).slotPlaces = s.slotPlaces := by
  unfold State.goneHoles
  split
  · split
    · split
      · exact State.ite_slotPlaces rfl rfl
      · rfl
      · simp
    · rfl
  · rfl

@[simp] theorem State.originGone_slotPlaces (s : State) (h : SubHandle) :
    (s.originGone h).slotPlaces = s.slotPlaces := by
  unfold State.originGone
  split
  · refine State.ite_slotPlaces rfl ?_
    rw [State.post_slotPlaces, State.toldIdle_slotPlaces]
    refine (State.modSub_slotPlaces _ h ?_).trans (s.goneHoles_slotPlaces h)
    exact fun _ => rfl
  · rfl

@[simp] theorem State.originBack_slotPlaces (s : State) (h : SubHandle) :
    (s.originBack h).slotPlaces = s.slotPlaces := by
  unfold State.originBack
  split
  · next w hw =>
    refine State.ite_slotPlaces (State.ite_slotPlaces ?_ (State.setSub_slotPlaces hw rfl)) rfl
    rw [State.toldResumed_slotPlaces]
    exact State.setSub_slotPlaces hw rfl
  · rfl

@[simp] theorem State.listSignal_slotPlaces (l : List Advert) (s : State) (h : SubHandle) :
    (State.listSignal l s h).slotPlaces = s.slotPlaces := by
  unfold State.listSignal
  split
  · split <;> simp
  · rfl

/-- R129: a signal leaves the places that its operation leaves at every handle. -/
theorem State.signal_slotPlaces {f : State → SubHandle → State} (hf : ∀ s h, (f s h).slotPlaces = s.slotPlaces)
    (s : State) (a : Addr) : (s.signal a f).slotPlaces = s.slotPlaces :=
  State.foldl_slotPlaces (fun t h => State.event_slotPlaces h (hf t h)) _ s

@[simp] theorem State.goneArrives_slotPlaces (s : State) (h : SubHandle) (g : GoneBody) :
    (s.goneArrives h g).slotPlaces = s.slotPlaces := by
  unfold State.goneArrives
  split
  · split
    · exact State.ite_slotPlaces
        (State.abandonWhile_slotPlaces h _ (fun t => State.event_slotPlaces h (t.abandon_slotPlaces h)) _ s) rfl
    · rfl
  · rfl

@[simp] theorem State.answerWaitExpires_slotPlaces (s : State) (h : SubHandle) :
    (s.answerWaitExpires h).slotPlaces = s.slotPlaces := by
  unfold State.answerWaitExpires
  split
  · split
    · refine State.ite_slotPlaces (by simp) (State.ite_slotPlaces (by simp) ?_)
      exact (State.event_slotPlaces h (State.abandon_slotPlaces _ h)).trans (by simp)
    · rfl
  · rfl

/-! ### The publication engine and the capture unit -/

@[simp] theorem State.seal_slotPlaces (s : State) (n : StreamNo) (c : SealContent) :
    (s.seal n c).slotPlaces = s.slotPlaces := by
  cases hp : s.pub n with
  | none => simp [State.seal, hp]
  | some p =>
    have h := State.setPub_slotPlaces hp (p.sealed_handles s.line (p.sealRecord s.ownAddr n c))
    rw [State.seal_eq hp]
    exact State.ite_slotPlaces ((State.addOffer_slotPlaces _ _).trans h) h

@[simp] theorem State.overrun_slotPlaces (s : State) (n : StreamNo) (k : Nat) :
    (s.overrun n k).slotPlaces = s.slotPlaces := by
  unfold State.overrun
  split
  · next p hp => exact State.setPub_slotPlaces hp rfl
  · rfl

@[simp] theorem State.captureSeal_slotPlaces (s : State) (n : StreamNo) (c : SealContent) :
    (s.captureSeal n c).slotPlaces = s.slotPlaces := by
  unfold State.captureSeal
  split
  · split <;> simp
  · rfl

@[simp] theorem State.setBuilder_slotPlaces (s : State) (n : StreamNo) (b : Builder) :
    (s.setBuilder n b).slotPlaces = s.slotPlaces := State.modPub_slotPlaces s n fun _ => rfl

@[simp] theorem State.sealBuilder_slotPlaces (s : State) (n : StreamNo) (b : Builder) (short : Bool) :
    (s.sealBuilder n b short).slotPlaces = s.slotPlaces := by simp [State.sealBuilder]

@[simp] theorem State.countBacklog_slotPlaces (s : State) (n : StreamNo) :
    (s.countBacklog n).slotPlaces = s.slotPlaces := State.modPub_slotPlaces s n fun _ => rfl

@[simp] theorem State.frameAt_slotPlaces (offset : Word16) (bits : BitVec 128) (s : State) (n : StreamNo) :
    (State.frameAt offset bits s n).slotPlaces = s.slotPlaces := by
  unfold State.frameAt
  split
  · split
    · exact State.ite_slotPlaces (by simp) (by simp)
    · rfl
  · rfl

@[simp] theorem State.frame_slotPlaces (s : State) (bits : BitVec 128) : (s.frame bits).slotPlaces = s.slotPlaces := by
  unfold State.frame
  exact State.slotPlaces_update (State.foldl_slotPlaces (State.frameAt_slotPlaces s.frameOffset bits) allStreams s)

@[simp] theorem State.shortSeal_slotPlaces (s : State) (n : StreamNo) : (s.shortSeal n).slotPlaces = s.slotPlaces := by
  unfold State.shortSeal
  split
  · split
    · split <;> simp
    · rfl
  · rfl

@[simp] theorem State.captureAdopt_slotPlaces (s : State) : s.captureAdopt.slotPlaces = s.slotPlaces := by
  have seals : (allStreams.foldl State.shortSeal s).slotPlaces = s.slotPlaces :=
    State.foldl_slotPlaces State.shortSeal_slotPlaces allStreams s
  unfold State.captureAdopt
  rw [State.foldl_slotPlaces fun t n => State.modPub_slotPlaces t n Pub.adopt_handles]
  exact State.slotPlaces_update seals

@[simp] theorem State.withdrawData_slotPlaces (s : State) (n : StreamNo) :
    (s.withdrawData n).slotPlaces = s.slotPlaces := by
  refine State.modPub_slotPlaces _ n fun p => ?_
  simp only [Pub.handles]
  apply List.ext_getElem <;> simp
  intro i hi
  split <;> rfl

@[simp] theorem State.withdrawAllData_slotPlaces (s : State) : s.withdrawAllData.slotPlaces = s.slotPlaces :=
  State.foldl_slotPlaces State.withdrawData_slotPlaces allStreams s

@[simp] theorem State.clearGones_slotPlaces (s : State) : s.clearGones.slotPlaces = s.slotPlaces :=
  State.foldl_slotPlaces (fun t n => by simp) allStreams s

@[simp] theorem State.addGoneRun_slotPlaces (s : State) (n : StreamNo) (g : Gen) (f : Seq) (k : Nat) :
    (s.addGoneRun n g f k).slotPlaces = s.slotPlaces := by
  unfold State.addGoneRun State.addGone
  split
  · rfl
  · split <;> simp

@[simp] theorem State.goneKept_slotPlaces (s : State) (n : StreamNo) : (s.goneKept n).slotPlaces = s.slotPlaces :=
  State.ite_slotPlaces rfl rfl

@[simp] theorem State.resendOne_slotPlaces (s : State) (n : StreamNo) (x : Seq) :
    (s.resendOne n x).slotPlaces = s.slotPlaces := by
  unfold State.resendOne
  split
  · next p hp =>
    split
    · split
      · exact (State.addOffer_slotPlaces _ _).trans (State.setPub_slotPlaces hp (Pub.setPos_handles _ _ _))
      · rfl
    · rfl
  · rfl

@[simp] theorem State.answerAsk_slotPlaces (s : State) (a : AskBody) : (s.answerAsk a).slotPlaces = s.slotPlaces := by
  unfold State.answerAsk
  split
  · dsimp only
    split
    · refine State.ite_slotPlaces ?_ (by simp)
      exact (State.foldl_slotPlaces (fun t x => t.resendOne_slotPlaces a.stream x) _ _).trans (by simp)
    · simp
  · rfl

/-! ### The mark unit -/

@[simp] theorem State.trigger_slotPlaces (s : State) : s.trigger.slotPlaces = s.slotPlaces :=
  State.ite_slotPlaces rfl (State.addOffer_slotPlaces _ .mark)

@[simp] theorem State.adopt_slotPlaces (s : State) (m : MarkNo) (src : MarkSource) (a : Addr) :
    (s.adopt m src a).slotPlaces = s.slotPlaces := by
  unfold State.adopt
  extract_lets t u v
  have ht : t.slotPlaces = s.slotPlaces := rfl
  have hu : u.slotPlaces = s.slotPlaces := (State.captureAdopt_slotPlaces t).trans ht
  have hv : v.slotPlaces = s.slotPlaces := State.ite_slotPlaces (State.slotPlaces_update hu) hu
  simpa using hv

@[simp] theorem State.satisfyRequest_slotPlaces (s : State) : s.satisfyRequest.slotPlaces = s.slotPlaces :=
  State.ite_slotPlaces rfl rfl

@[simp] theorem State.peerMark_slotPlaces (s : State) (m : MarkNo) (a : Addr) :
    (s.peerMark m a).slotPlaces = s.slotPlaces :=
  State.ite_slotPlaces (State.ite_slotPlaces (by simp) (by simp)) rfl

@[simp] theorem State.joinMark_slotPlaces (s : State) (m : MarkNo) (a : Addr) :
    (s.joinMark m a).slotPlaces = s.slotPlaces := State.ite_slotPlaces (by simp) rfl

@[simp] theorem State.markLeavesActive_slotPlaces (s : State) : s.markLeavesActive.slotPlaces = s.slotPlaces :=
  State.ite_slotPlaces rfl rfl

@[simp] theorem State.markSent_slotPlaces (s : State) (m : MarkNo) : (s.markSent m).slotPlaces = s.slotPlaces :=
  State.adopt_slotPlaces _ _ _ _

@[simp] theorem State.markExhausted_slotPlaces (s : State) (m : MarkNo) :
    (s.markExhausted m).slotPlaces = s.slotPlaces := State.ite_slotPlaces rfl rfl

@[simp] theorem State.markKept_slotPlaces (s : State) : s.markKept.slotPlaces = s.slotPlaces :=
  State.ite_slotPlaces rfl rfl

/-! ### The line -/

@[simp] theorem State.leavingActive_slotPlaces (s : State) : s.leavingActive.slotPlaces = s.slotPlaces := by
  unfold State.leavingActive
  extract_lets t
  have ht : t.slotPlaces = s.slotPlaces := by simp [t]
  rw [State.withdrawHello_slotPlaces]
  exact State.slotPlaces_update ht

@[simp] theorem State.moveLine_slotPlaces (s : State) (l : LineState) : (s.moveLine l).slotPlaces = s.slotPlaces :=
  State.ite_slotPlaces (State.leavingActive_slotPlaces { s with line := l }) rfl

@[simp] theorem State.rosterOffline_slotPlaces (s : State) : s.rosterOffline.slotPlaces = s.slotPlaces := by
  unfold State.rosterOffline
  refine State.foldl_slotPlaces ?_ allPlaces s
  exact fun _ _ => rfl

@[simp] theorem State.enterOffline_slotPlaces (s : State) : s.enterOffline.slotPlaces = s.slotPlaces := by
  unfold State.enterOffline
  extract_lets t
  have ht : t.slotPlaces = s.slotPlaces := by simp [t]
  exact State.slotPlaces_update ((State.rosterOffline_slotPlaces t).trans ht)

@[simp] theorem State.enterMute_slotPlaces (s : State) (c : MuteCause) : (s.enterMute c).slotPlaces = s.slotPlaces := by
  unfold State.enterMute
  extract_lets t
  have ht : t.slotPlaces = s.slotPlaces := by simp [t]
  rw [State.postLine_slotPlaces]
  exact State.slotPlaces_update ht

@[simp] theorem State.enterActive_slotPlaces (s : State) : s.enterActive.slotPlaces = s.slotPlaces := by
  unfold State.enterActive
  rw [State.postLine_slotPlaces]
  exact State.slotPlaces_update (State.unparkRepairs_slotPlaces { s with line := .active, listenTimer := .stopped })

@[simp] theorem State.enterDeparting_slotPlaces (s : State) : s.enterDeparting.slotPlaces = s.slotPlaces := by
  simp [State.enterDeparting]

@[simp] theorem State.conflict_slotPlaces (s : State) : s.conflict.slotPlaces = s.slotPlaces := by
  unfold State.conflict
  split
  · simp
  · simp
  · simp
  all_goals rfl

@[simp] theorem State.streakMutes_slotPlaces (s : State) : s.streakMutes.slotPlaces = s.slotPlaces :=
  State.ite_slotPlaces (by simp) rfl

@[simp] theorem State.startParcel_slotPlaces (s : State) : s.startParcel.slotPlaces = s.slotPlaces := by
  rcases s.startParcel_cases with e | ⟨o, p, -, -, -, e⟩ <;> rw [e]
  rfl

/-! ### The roster and receptions -/

@[simp] theorem State.presence_slotPlaces (s : State) (a : Addr) (k : Byte) :
    (s.presence a k).slotPlaces = s.slotPlaces := by
  have back := State.signal_slotPlaces State.originBack_slotPlaces
  unfold State.presence
  dsimp only
  split <;> simp [back]

@[simp] theorem State.peerGone_slotPlaces (s : State) (a : Addr) (d : Word16) :
    (s.peerGone a d).slotPlaces = s.slotPlaces := by
  simp [State.peerGone, State.signal_slotPlaces State.originGone_slotPlaces]

@[simp] theorem State.hello_slotPlaces (s : State) (a : Addr) (b : HelloBody) :
    (s.hello a b).slotPlaces = s.slotPlaces := by
  have check : (s.restartCheck a b).slotPlaces = s.slotPlaces := by
    unfold State.restartCheck
    split
    · exact State.ite_slotPlaces (State.signal_slotPlaces State.restarted_slotPlaces _ a) rfl
    · rfl
  have store : ((s.restartCheck a b).storeHello a b).slotPlaces = s.slotPlaces :=
    (State.setPeer_slotPlaces _ _ _).trans check
  refine State.ite_slotPlaces ?_ ?_
  · exact (State.peerGone_slotPlaces _ _ _).trans store
  · exact (State.signal_slotPlaces (State.listSignal_slotPlaces _) _ a).trans store

@[simp] theorem State.silenceSilent_slotPlaces (s : State) (a : Addr) :
    (s.silenceSilent a).slotPlaces = s.slotPlaces := State.ite_slotPlaces (by simp) rfl

@[simp] theorem State.silenceGone_slotPlaces (s : State) (a : Addr) :
    (s.silenceGone a).slotPlaces = s.slotPlaces := State.ite_slotPlaces (by simp) rfl

@[simp] theorem State.dispatchBody_slotPlaces (s : State) (a : Addr) (b : Body) :
    (s.dispatchBody a b).slotPlaces = s.slotPlaces := by
  unfold State.dispatchBody
  split
  · exact State.ite_slotPlaces (by simp) (by simp)
  · exact State.ite_slotPlaces (by simp) (by simp)
  · split <;> simp
  · refine State.ite_slotPlaces (by simp) ?_
    split <;> simp
  · split <;> simp

@[simp] theorem State.handOn_slotPlaces (s : State) (p : Parcel) : (s.handOn p).slotPlaces = s.slotPlaces :=
  State.ite_slotPlaces (by simp [State.addressConflict]) (by simp)

@[simp] theorem State.receive_slotPlaces (s : State) (p : Parcel) : (s.receive p).slotPlaces = s.slotPlaces :=
  State.ite_slotPlaces (State.ite_slotPlaces (by simp) (by simp)) rfl

@[simp] theorem State.receiveBytes_slotPlaces (s : State) (bytes : List Byte) :
    (s.receiveBytes bytes).slotPlaces = s.slotPlaces := by
  refine State.ite_slotPlaces ?_ rfl
  split <;> simp

end Sys2Proof.Machine
end

section
/-! SUPPORT. Everything a step can do to the slots: nothing, lending a ring or a window, returning one, or a reset (R5 to
R8, R170). The sum of R8 follows. -/

namespace Sys2Proof.Machine

set_option Elab.async false

open Sys2Proof

/-! ### What can happen to the slots -/

/-- R5 to R8, R170: everything that can happen to the slots, one thing after another: nothing; a ring or window is lent
from the front of the free list; one is returned whole; a reset frees all 256. -/
inductive SlotMoves : State → State → Prop
  | stay {s t : State} (places : t.slotPlaces = s.slotPlaces) : SlotMoves s t
  | lend {s t : State} (k : Nat) (free : t.freeSlots = s.freeSlots.drop k)
      (lent : t.lent.Perm (s.freeSlots.take k ++ s.lent)) : SlotMoves s t
  | giveBack {s t : State} (handles : List Nat) (free : t.freeSlots = returnSlots handles s.freeSlots)
      (lent : (handles ++ t.lent).Perm s.lent) : SlotMoves s t
  | reset {s t : State} (places : t.slotPlaces = State.reset.slotPlaces) : SlotMoves s t
  | trans {s t u : State} (first : SlotMoves s t) (second : SlotMoves t u) : SlotMoves s u

theorem SlotMoves.refl (s : State) : SlotMoves s s := .stay rfl

/-- A move, and then an operation that leaves the places. -/
theorem SlotMoves.thenStay {s t u : State} (m : SlotMoves s t) (e : u.slotPlaces = t.slotPlaces) : SlotMoves s u :=
  m.trans (.stay e)

/-- An operation that leaves the places, and then a move. -/
theorem SlotMoves.after {s t u : State} (m : SlotMoves t u) (e : t.slotPlaces = s.slotPlaces) : SlotMoves s u :=
  (SlotMoves.stay e).trans m

theorem SlotMoves.ite {c : Prop} [Decidable c] {s t u : State} (a : SlotMoves s t) (b : SlotMoves s u) :
    SlotMoves s (if c then t else u) := by
  split
  · exact a
  · exact b

/-! ### Rings -/

/-- R15, R17: the removal of a publication returns its ring. -/
theorem SlotMoves.removePub (s : State) (n : StreamNo) : SlotMoves s (s.removePub n) := by
  cases hp : s.pub n with
  | none => exact .stay (by simp only [State.removePub, hp])
  | some p =>
    have perm := State.setStream_lent_perm s n { s.stream n with pub := none }
    rw [StreamRec.lent_of_pub hp] at perm
    refine .giveBack p.handles ?_ ?_
    · simp only [State.removePub, hp]
    · simp only [State.removePub, hp]
      exact perm

theorem SlotMoves.finishClosing (s : State) (n : StreamNo) (p : Pub) : SlotMoves s (s.finishClosing n p) :=
  (SlotMoves.removePub s n).thenStay rfl

/-- R13: an open lends a ring to a stream number without a publication. -/
theorem SlotMoves.openPub {s : State} {n : StreamNo} (hp : s.pub n = none) (src : Source) (st : PubStart) (size : Nat)
    (mask : Byte) (k d : Nat) : SlotMoves s (s.openPub n src st size mask k d) := by
  have perm := State.setStream_lent_perm s n
    { s.stream n with
      counter := (s.stream n).counter + 1
      pub := some (newPub src st mask k d ((s.stream n).counter + 1) (s.freeSlots.take size)) }
  rw [StreamRec.lent_of_no_pub hp] at perm
  simp only [StreamRec.lent, newPub_handles, List.nil_append] at perm
  unfold State.openPub
  refine SlotMoves.thenStay (.lend size rfl ?_) (State.announce_slotPlaces _)
  exact perm

/-! ### Windows -/

/-- R49: a close returns the window. -/
theorem SlotMoves.closeSub {s : State} {h : SubHandle} {w : Sub} (hw : s.sub h = some w) :
    SlotMoves s (s.closeSub h w) := by
  have perm := State.setSub_lent_perm s h none
  rw [hw] at perm
  exact .giveBack w.handles rfl perm

/-- R48: an open lends a window to a handle without a subscription. -/
theorem SlotMoves.openSub {s : State} {h : SubHandle} (hw : s.sub h = none) (a : Addr) (n : StreamNo) (size : Nat)
    (pol : GapPolicy) (st : SubStart) : SlotMoves s (s.openSub h a n size pol st) := by
  have perm := State.setSub_lent_perm s h (some (newSub a n pol st (s.freeSlots.take size)))
  simp only [hw, lentToSub, newSub_handles, List.nil_append] at perm
  have lends : SlotMoves s
      (({ s with freeSlots := s.freeSlots.drop size } : State).setSub h
        (some (newSub a n pol st (s.freeSlots.take size)))) :=
    .lend size rfl perm
  unfold State.openSub
  dsimp only
  split
  · exact lends.thenStay (State.event_slotPlaces h (State.advertised_slotPlaces _ h _))
  · exact lends

/-- R48: no subscription is open on the lowest handle not in use. -/
theorem State.sub_of_lowestHandle {s : State} {h : SubHandle} (hl : s.lowestHandle = some h) : s.sub h = none := by
  have unused := List.find?_some hl
  simp only [State.handleInUse, Bool.not_or, Bool.and_eq_true, Bool.not_eq_true', Option.isSome_eq_false_iff,
    Option.isNone_iff_eq_none] at unused
  exact unused.1

/-! ### Outcomes -/

theorem SlotMoves.dataDone (s : State) (n : StreamNo) (i : Nat) (resend : Bool) :
    SlotMoves s (s.dataDone n i resend) := by
  unfold State.dataDone
  split
  · next p hp =>
    exact SlotMoves.ite (SlotMoves.finishClosing s n p) (.stay (State.setPub_slotPlaces hp (by simp)))
  · exact .refl s

theorem SlotMoves.dataKept (s : State) (n : StreamNo) (i : Nat) : SlotMoves s (s.dataKept n i) := by
  unfold State.dataKept
  split
  · next p hp =>
    refine SlotMoves.ite (SlotMoves.finishClosing s n p) (SlotMoves.ite (.refl s) (.stay ?_))
    exact State.setPub_slotPlaces (s := s.withdraw (.fresh n i)) hp (by simp)
  · exact .stay rfl

/-- R17: a SENT or exhausted entry can return the ring of a CLOSING publication. -/
theorem SlotMoves.ownerDone (s : State) (o : Offer) (sent : Bool) : SlotMoves s (s.ownerDone o sent) := by
  unfold State.ownerDone
  split
  · exact SlotMoves.ite (.stay (by simp)) (.stay (by simp))
  · exact .stay (by simp)
  · exact .stay (by simp)
  · exact SlotMoves.dataDone s _ _ _
  · exact SlotMoves.dataDone s _ _ _
  · exact SlotMoves.ite (.stay (by simp)) (.refl s)
  · exact SlotMoves.ite (.stay (by simp)) (SlotMoves.ite (.stay rfl) (.refl s))
  · exact SlotMoves.ite (.stay (by simp)) (.refl s)

/-- R17: a LOST entry, or one that FAILED below the limit, can return the ring of a CLOSING publication. -/
theorem SlotMoves.ownerKept (s : State) (o : Offer) : SlotMoves s (s.ownerKept o) := by
  unfold State.ownerKept
  split
  · exact .stay (by simp)
  · exact SlotMoves.ite (.refl s) (.stay rfl)
  · exact .stay (by simp)
  · exact SlotMoves.dataKept s _ _
  · exact SlotMoves.dataKept s _ _
  · exact SlotMoves.ite (.refl s) (.stay rfl)
  · exact SlotMoves.ite (.refl s) (SlotMoves.ite (.stay (by simp)) (.stay rfl))
  · exact SlotMoves.ite (.refl s) (.stay rfl)

theorem SlotMoves.outcomeSent (s : State) : SlotMoves s s.outcomeSent := by
  rcases s.outcomeSent_cases with ⟨-, e⟩ | ⟨o, -, e⟩ <;> rw [e]
  · exact .refl s
  · exact (SlotMoves.ownerDone _ o true).after rfl

theorem SlotMoves.outcomeLost (s : State) : SlotMoves s s.outcomeLost := by
  rcases s.outcomeLost_cases with ⟨-, e⟩ | ⟨o, -, e⟩ <;> rw [e]
  · exact .refl s
  · exact (SlotMoves.ownerKept _ o).after (by simp)

theorem SlotMoves.failedAtOwner (s : State) (o : Offer) : SlotMoves s (s.failedAtOwner o) :=
  SlotMoves.ite ((SlotMoves.ownerDone _ o false).after (by simp)) ((SlotMoves.ownerKept _ o).after (by simp))

/-- R143: the owner and the line interface are told in either order. -/
theorem SlotMoves.failedAtLimit (s : State) (o : Offer) : SlotMoves s (s.failedAtLimit o) := by
  unfold State.failedAtLimit
  extract_lets t
  have ht : t.slotPlaces = s.slotPlaces := rfl
  refine SlotMoves.ite ?_ (SlotMoves.ite ?_ ?_)
  · exact ((SlotMoves.failedAtOwner t o).after ht).thenStay (State.streakMutes_slotPlaces _)
  · exact (SlotMoves.ownerDone _ o false).after (by simpa using ht)
  · exact (SlotMoves.ownerKept _ o).after (by simpa using ht)

theorem SlotMoves.outcomeFailed (s : State) : SlotMoves s s.outcomeFailed := by
  unfold State.outcomeFailed
  split
  · next o _ =>
    exact SlotMoves.ite ((SlotMoves.failedAtLimit _ o).after rfl) ((SlotMoves.failedAtOwner _ o).after rfl)
  · exact .refl s

/-! ### Host commands -/

/-- R163 to R165: a command does to the slots at most what its body does. -/
theorem SlotMoves.command {s : State} {run : State → State × Response} (h : SlotMoves s (run s).1) :
    SlotMoves s (s.command run) := by
  rcases s.command_cases run with ⟨-, e⟩ | ⟨-, -, e⟩ | ⟨-, -, e⟩ <;> rw [e]
  · exact .refl s
  · exact .stay rfl
  · exact h.thenStay rfl

theorem SlotMoves.joinCommand (s : State) : SlotMoves s s.joinCommand.1 := by
  unfold State.joinCommand
  split <;> exact .stay rfl

theorem SlotMoves.leaveCommand (s : State) : SlotMoves s s.leaveCommand.1 := by
  unfold State.leaveCommand
  split <;> exact .stay (by simp)

theorem SlotMoves.markCommand (s : State) : SlotMoves s s.markCommand.1 := by
  unfold State.markCommand
  split <;> exact .stay (by simp)

theorem SlotMoves.nextNoticeCommand (s : State) : SlotMoves s s.nextNoticeCommand.1 := by
  unfold State.nextNoticeCommand
  split <;> exact .stay rfl

theorem SlotMoves.rosterCommand (address : Byte) (s : State) : SlotMoves s (s.rosterCommand address).1 := by
  unfold State.rosterCommand
  split <;> exact .refl s

theorem SlotMoves.openPubCommand (stream source size start mask k : Byte) (d : Word16) (s : State) :
    SlotMoves s (s.openPubCommand stream source size start mask k d).1 := by
  unfold State.openPubCommand
  split
  · next n src st k' d' _ _ =>
    split
    · exact .refl s
    · next hp =>
      split
      · exact .refl s
      · exact SlotMoves.openPub (by simpa using hp) src st _ mask k' d'
  · exact .refl s

theorem SlotMoves.closePubCommand (stream : Byte) (s : State) : SlotMoves s (s.closePubCommand stream).1 := by
  unfold State.closePubCommand
  split
  · next n _ =>
    split
    · split
      · exact .refl s
      · split
        · refine .stay ((State.announce_slotPlaces _).trans ?_)
          refine (State.modPub_slotPlaces _ n ?_).trans (s.withdrawData_slotPlaces n)
          exact fun _ => rfl
        · exact (SlotMoves.removePub s n).thenStay (State.announce_slotPlaces _)
    · exact .refl s
  · exact .refl s

theorem SlotMoves.putCommand (stream count : Byte) (samples : List Sample) (s : State) :
    SlotMoves s (s.putCommand stream count samples).1 := by
  unfold State.putCommand
  split
  · split
    · split
      · split
        · exact .refl s
        · split
          · exact .refl s
          · split
            · exact .stay (by simp)
            · exact .stay (by simp)
      · exact .refl s
    · exact .refl s
  · exact .refl s

theorem SlotMoves.pubStatusCommand (stream : Byte) (s : State) : SlotMoves s (s.pubStatusCommand stream).1 := by
  unfold State.pubStatusCommand
  split <;> exact .refl s

theorem SlotMoves.openSubCommand (origin stream size policy start : Byte) (s : State) :
    SlotMoves s (s.openSubCommand origin stream size policy start).1 := by
  unfold State.openSubCommand
  split
  · next a n pol st _ =>
    split
    · exact .refl s
    · split
      · next h hl =>
        split
        · exact .refl s
        · exact SlotMoves.openSub (State.sub_of_lowestHandle hl) a n _ pol st
      · exact .refl s
  · exact .refl s

/-- R49, R57, R61, R66: a command on a handle does to the slots at most what it does to an open subscription. -/
theorem SlotMoves.onHandle {s : State} {handle : Byte} {f : SubHandle → Sub → State × Response}
    (hf : ∀ h w, s.sub h = some w → SlotMoves s (f h w).1) : SlotMoves s (s.onHandle handle f).1 := by
  unfold State.onHandle
  split
  · next h _ =>
    split
    · next w hw => exact hf h w hw
    · exact .refl s
  · exact .refl s

theorem SlotMoves.closeSubCommand (handle : Byte) (s : State) : SlotMoves s (s.closeSubCommand handle).1 :=
  SlotMoves.onHandle fun _ _ hw => SlotMoves.closeSub hw

theorem SlotMoves.takeCommand (handle : Byte) (s : State) : SlotMoves s (s.takeCommand handle).1 :=
  SlotMoves.onHandle fun h w hw => by
    split
    · exact .stay (State.setSub_slotPlaces hw (w.put_handles _ _))
    · exact .refl s

theorem SlotMoves.resumeCommand (handle : Byte) (s : State) : SlotMoves s (s.resumeCommand handle).1 :=
  SlotMoves.onHandle fun h w _ => by
    split
    · dsimp only
      refine .stay (State.event_slotPlaces h ?_)
      rw [State.toldResumed_slotPlaces]
      refine (State.modSub_slotPlaces _ h ?_).trans (s.giveUp_slotPlaces h false)
      exact fun _ => rfl
    · exact .refl s

theorem SlotMoves.subStatusCommand (handle : Byte) (s : State) : SlotMoves s (s.subStatusCommand handle).1 :=
  SlotMoves.onHandle fun _ _ _ => .refl s

theorem SlotMoves.readCommand (slot first count : Byte) (s : State) :
    SlotMoves s (s.readCommand slot first count).1 := by
  unfold State.readCommand
  split
  · split
    · split <;> exact .refl s
    · exact .refl s
  · exact .refl s

theorem SlotMoves.releaseCommand (slot : Byte) (s : State) : SlotMoves s (s.releaseCommand slot).1 := by
  unfold State.releaseCommand
  split
  · next h i _ => exact .stay (State.modSub_slotPlaces s h fun w => w.releaseAt_handles i)
  · exact .refl s

/-! ### Resets -/

/-- R170: a reset frees every slot. -/
theorem State.resetBlocks_slotPlaces (s : State) : s.resetBlocks.slotPlaces = State.reset.slotPlaces := by
  unfold State.resetBlocks
  exact State.slotPlaces_update rfl

theorem SlotMoves.beginReset (s : State) (k : ResetHold) : SlotMoves s (s.beginReset k) := by
  unfold State.beginReset
  exact .reset (State.slotPlaces_update s.resetBlocks_slotPlaces)

theorem SlotMoves.endReset (s : State) (k : ResetHold) : SlotMoves s (s.endReset k) := by
  unfold State.endReset
  exact .reset (State.slotPlaces_update s.resetBlocks_slotPlaces)

theorem SlotMoves.supplyReset (s : State) : SlotMoves s s.supplyReset := by
  unfold State.supplyReset
  exact (SlotMoves.beginReset s .supply).thenStay (State.slotPlaces_update rfl)

theorem SlotMoves.resetnFalls (s : State) : SlotMoves s s.resetnFalls := by
  unfold State.resetnFalls
  exact SlotMoves.ite (.refl s) ((SlotMoves.beginReset s .pin).thenStay (State.slotPlaces_update rfl))

theorem SlotMoves.supplyStable (s : State) : SlotMoves s s.supplyStable :=
  SlotMoves.ite (SlotMoves.ite (.stay rfl) (SlotMoves.endReset s _)) (.refl s)

theorem SlotMoves.resetnRises (s : State) : SlotMoves s s.resetnRises :=
  SlotMoves.ite (SlotMoves.ite (.stay rfl) (SlotMoves.endReset s _)) (.refl s)

theorem SlotMoves.restartCommand (s : State) : SlotMoves s s.restartCommand := by
  unfold State.restartCommand
  exact .reset ((State.respond_slotPlaces _ _).trans (State.slotPlaces_update s.resetBlocks_slotPlaces))

/-! ### The sample port, the pins and the timers -/

theorem State.fsyncFalls_slotPlaces (s : State) : s.fsyncFalls.slotPlaces = s.slotPlaces :=
  State.ite_slotPlaces rfl rfl

theorem State.frameCompletes_slotPlaces (s : State) (bits : BitVec 128) :
    (s.frameCompletes bits).slotPlaces = s.slotPlaces :=
  State.ite_slotPlaces ((State.frame_slotPlaces _ bits).trans rfl) rfl

theorem State.markinEdge_slotPlaces (s : State) (e : Edge) : (s.markinEdge e).slotPlaces = s.slotPlaces := by
  unfold State.markinEdge
  split
  · exact State.ite_slotPlaces (by simp) rfl
  · rfl

theorem State.intervalExpires_slotPlaces (s : State) : s.intervalExpires.slotPlaces = s.slotPlaces := by
  unfold State.intervalExpires
  exact State.ite_slotPlaces (State.slotPlaces_update s.trigger_slotPlaces) rfl

theorem State.presenceExpires_slotPlaces (s : State) : s.presenceExpires.slotPlaces = s.slotPlaces := by
  unfold State.presenceExpires
  exact State.ite_slotPlaces (State.slotPlaces_update (s.addOffer_slotPlaces (.hello .presence))) rfl

theorem State.listenExpires_slotPlaces (s : State) : s.listenExpires.slotPlaces = s.slotPlaces :=
  State.ite_slotPlaces ((State.addOffer_slotPlaces _ (.hello .join)).trans rfl) rfl

/-! ### Every step -/

/-- R168: CONFIGURE moves no slot. -/
theorem SlotMoves.applyImage (s : State) (c : Image) : SlotMoves s (s.applyImage c) :=
  .stay ((State.setPeer_slotPlaces _ _ _).trans rfl)

/-- R162: the last response byte, shifted out, moves no slot. -/
theorem SlotMoves.responseEnds (s : State) : SlotMoves s s.responseEnds := by
  unfold State.responseEnds
  split <;> exact .stay rfl

/-- R5 to R8, R170: every row has a meaning, and this is what it can do to the slots. -/
theorem SlotMoves.of_row (c : Instr) (s : State) : ∃ t, exec c s = .next t ∧ SlotMoves s t := by
  cases c with
  | configure image =>
    refine ⟨_, rfl, SlotMoves.ite (SlotMoves.ite (.stay rfl) (SlotMoves.ite ?_ (.stay rfl))) (.refl s)⟩
    exact (SlotMoves.applyImage s image).thenStay (State.respond_slotPlaces _ _)
  | restart => exact ⟨_, rfl, SlotMoves.ite (.restartCommand s) (.refl s)⟩
  | status => exact ⟨_, rfl, SlotMoves.ite (.stay rfl) (.refl s)⟩
  | join => exact ⟨_, rfl, SlotMoves.command (.joinCommand s)⟩
  | leave => exact ⟨_, rfl, SlotMoves.command (.leaveCommand s)⟩
  | mark => exact ⟨_, rfl, SlotMoves.command (.markCommand s)⟩
  | nextNotice => exact ⟨_, rfl, SlotMoves.command (.nextNoticeCommand s)⟩
  | openPub => exact ⟨_, rfl, SlotMoves.command (.openPubCommand ..)⟩
  | closePub => exact ⟨_, rfl, SlotMoves.command (.closePubCommand ..)⟩
  | put => exact ⟨_, rfl, SlotMoves.ite (.refl s) (SlotMoves.command (.putCommand ..))⟩
  | pubStatus => exact ⟨_, rfl, SlotMoves.command (.pubStatusCommand ..)⟩
  | openSub => exact ⟨_, rfl, SlotMoves.command (.openSubCommand ..)⟩
  | closeSub => exact ⟨_, rfl, SlotMoves.command (.closeSubCommand ..)⟩
  | take => exact ⟨_, rfl, SlotMoves.command (.takeCommand ..)⟩
  | read => exact ⟨_, rfl, SlotMoves.command (.readCommand ..)⟩
  | release => exact ⟨_, rfl, SlotMoves.command (.releaseCommand ..)⟩
  | resume => exact ⟨_, rfl, SlotMoves.command (.resumeCommand ..)⟩
  | subStatus => exact ⟨_, rfl, SlotMoves.command (.subStatusCommand ..)⟩
  | roster => exact ⟨_, rfl, SlotMoves.command (.rosterCommand ..)⟩
  | unknownCode => exact ⟨_, rfl, SlotMoves.ite (.stay rfl) (.refl s)⟩
  | transactionStart => exact ⟨_, rfl, SlotMoves.ite (.refl s) (.stay rfl)⟩
  | transactionCut => exact ⟨_, rfl, .stay rfl⟩
  | lastResponseByte => exact ⟨_, rfl, .responseEnds s⟩
  | powerUp => exact ⟨_, rfl, .supplyReset s⟩
  | supplyDrop => exact ⟨_, rfl, .supplyReset s⟩
  | resetnLow => exact ⟨_, rfl, .resetnFalls s⟩
  | resetEnd hold =>
    cases hold with
    | supply => exact ⟨_, rfl, .supplyStable s⟩
    | pin => exact ⟨_, rfl, .resetnRises s⟩
  | frameStart => exact ⟨_, rfl, .stay s.fsyncFalls_slotPlaces⟩
  | frameArrival bits => exact ⟨_, rfl, .stay (s.frameCompletes_slotPlaces bits)⟩
  | markinEdge edge => exact ⟨_, rfl, .stay (s.markinEdge_slotPlaces edge)⟩
  | askDelayExpiry handle => exact ⟨_, rfl, .stay (s.askDelayExpires_slotPlaces handle)⟩
  | answerWaitExpiry handle => exact ⟨_, rfl, .stay (s.answerWaitExpires_slotPlaces handle)⟩
  | intervalTimerExpiry => exact ⟨_, rfl, .stay s.intervalExpires_slotPlaces⟩
  | presenceTimerExpiry => exact ⟨_, rfl, .stay s.presenceExpires_slotPlaces⟩
  | silenceTimerSilent a => exact ⟨_, rfl, .stay (s.silenceSilent_slotPlaces a)⟩
  | silenceTimerGone a => exact ⟨_, rfl, .stay (s.silenceGone_slotPlaces a)⟩
  | listenSpanExpiry => exact ⟨_, rfl, .stay s.listenExpires_slotPlaces⟩
  | parcelStart => exact ⟨_, rfl, .stay s.startParcel_slotPlaces⟩
  | outcomeSent => exact ⟨_, rfl, .outcomeSent s⟩
  | outcomeLost => exact ⟨_, rfl, .outcomeLost s⟩
  | outcomeFailed => exact ⟨_, rfl, .outcomeFailed s⟩
  | helloAccepted => exact ⟨_, rfl, .stay (s.receive_slotPlaces _)⟩
  | markAccepted => exact ⟨_, rfl, .stay (s.receive_slotPlaces _)⟩
  | dataAccepted => exact ⟨_, rfl, .stay (s.receive_slotPlaces _)⟩
  | askAccepted => exact ⟨_, rfl, .stay (s.receive_slotPlaces _)⟩
  | goneAccepted => exact ⟨_, rfl, .stay (s.receive_slotPlaces _)⟩
  | brokenParcel => exact ⟨_, rfl, .stay s.receptionBreaks_slotPlaces⟩
  | discardedParcel bytes => exact ⟨_, rfl, .stay (s.receiveBytes_slotPlaces bytes)⟩
  | lineIdle => exact ⟨_, rfl, .stay s.becomesIdle_slotPlaces⟩

theorem SlotMoves.exec {c : Instr} {s t : State} (h : exec c s = .next t) : SlotMoves s t := by
  obtain ⟨u, e, m⟩ := SlotMoves.of_row c s
  rw [e] at h
  injection h with h
  exact h ▸ m

/-- R5 to R8, R170: what a step can do to the slots. -/
theorem SlotMoves.step {s t : State} (h : step s = .next t) : SlotMoves s t := by
  have rows (c : Instr) (u v : State) (m : SlotMoves s u) (e : Machine.exec c u = .next v) : SlotMoves s v :=
    m.trans (SlotMoves.exec e)
  refine step_induction (P := SlotMoves s) rows (fun w u v m e => ?_) (fun _ _ m => m.thenStay rfl)
    (fun _ _ m => m.thenStay rfl) (.refl s) h
  exact tick_induction (P := SlotMoves s) rows (fun _ _ m => m.thenStay rfl) (fun _ _ m => m.thenStay rfl)
    (fun _ m _ => m.thenStay rfl) (fun _ m => m.thenStay rfl) (fun _ _ m => m.thenStay rfl)
    (fun _ _ m _ _ => m.thenStay rfl) m e

/-! ### The sum of R8 -/

/-- R8: no slot is lent after reset, and the free list has all 256. -/
theorem State.reset_slotTotal : State.reset.slotTotal = 256 := by decide +kernel

/-- R8: what can happen to the slots keeps the sum. -/
theorem SlotMoves.keeps_slotTotal {s t : State} (m : SlotMoves s t) (h : s.slotTotal = 256) : t.slotTotal = 256 := by
  induction m with
  | stay places =>
    obtain ⟨free, lent⟩ := (State.slotPlaces_eq_iff _ _).mp places
    rwa [State.slotTotal_eq_length, free, lent, ← State.slotTotal_eq_length]
  | lend k free lent =>
    rw [State.slotTotal_eq_length, List.length_append] at h ⊢
    rw [free, lent.length_eq, List.length_append, List.length_take, List.length_drop]
    omega
  | giveBack handles free lent =>
    have back := lent.length_eq
    rw [State.slotTotal_eq_length, List.length_append] at h ⊢
    rw [List.length_append] at back
    rw [free, returnSlots_length]
    omega
  | reset places =>
    obtain ⟨free, lent⟩ := (State.slotPlaces_eq_iff _ _).mp places
    rw [State.slotTotal_eq_length, free, lent, ← State.slotTotal_eq_length]
    exact State.reset_slotTotal
  | trans _ _ first second => exact second (first h)

/-- Settles O5: the sum counts the places of the slots, and each step only moves slots between them. -/
theorem slotSumConstant : Obligations.SlotSumConstant := by
  unfold Obligations.SlotSumConstant
  exact ⟨State.reset_slotTotal, fun _ _ h hstep => (SlotMoves.step hstep).keeps_slotTotal h⟩

end Sys2Proof.Machine
end

section
/-! SUPPORT. The ROSTER command (R127): what a taken command answers and that it leaves the state. -/

namespace Sys2Proof.Machine

open Sys2Proof

/-! ### Taking a command -/

/-- R165: before CONFIGURE a command other than CONFIGURE, STATUS and RESTART is answered STATE. -/
theorem State.command_unconfigured {s : State} (hs : s.collecting = true) (hc : s.config = none)
    (run : State → State × Response) : s.command run = s.answers [0x11] := by
  have unconfigured : s.configured = false := by rw [State.configured, hc, Option.isSome_none]
  rcases s.command_cases run with ⟨idle, -⟩ | ⟨-, -, refused⟩ | ⟨-, configured, -⟩
  · exact absurd (hs.symm.trans idle) (by decide)
  · exact refused
  · exact absurd (configured.symm.trans unconfigured) (by decide)

/-- R47, R127: the addresses of the roster. -/
theorem isAddress_iff (b : Byte) : isAddress b = true ↔ 1 ≤ b.toNat ∧ b.toNat ≤ 62 := decide_eq_true_iff

/-! ### ROSTER (R127) -/

/-- R127: ROSTER names an address outside 1..62. -/
theorem execRoster_badArg {s : State} (h : s.takes) {address : Byte} (ha : ¬(1 ≤ address.toNat ∧ address.toNat ≤ 62)) :
    execRoster address s = .next (s.answers [0x10]) := by
  have refused : s.rosterCommand address = (s, .refuse .badArg) := if_neg (mt (isAddress_iff address).mp ha)
  rw [execRoster, State.command_taken h, refused]
  rfl

/-- R127: ROSTER of an address 1..62 changes nothing. -/
theorem execRoster_ok {s : State} (h : s.takes) {address : Byte} (ha : 1 ≤ address.toNat ∧ address.toNat ≤ 62) :
    execRoster address s = .next (s.answers (0x00 :: s.rosterOf (addrOf address))) := by
  have answered : s.rosterCommand address = (s, .ok (s.rosterOf (addrOf address))) :=
    if_pos ((isAddress_iff address).mpr ha)
  rw [execRoster, State.command_taken h, answered]
  rfl

/-- The own address of a configured part is its image's. -/
theorem State.ownAddr_of_config {s : State} {c : Image} (hc : s.config = some c) : s.ownAddr = addrOf c.address := by
  simp only [State.ownAddr, hc]

/-- R127: the own entry comes from the image, M and the list a HELLO would carry, not from the roster. -/
theorem State.rosterOf_own {s : State} {c : Image} (hc : s.config = some c) :
    s.rosterOf (addrOf c.address)
      = rosterBytes .self (some ⟨c.unit, c.token⟩) (some c.presence) (some s.markNo) s.ownAdverts := by
  simp only [State.rosterOf, hc, State.ownAddr_of_config hc, if_true]

/-- R127: every other address has its roster entry answered. -/
theorem State.rosterOf_peer {s : State} {c : Image} (hc : s.config = some c) {a : Addr} (ha : a ≠ addrOf c.address) :
    s.rosterOf a
      = rosterBytes (s.peer a).state (s.peer a).identity (s.peer a).interval (s.peer a).mark (s.peer a).adverts := by
  simp only [State.rosterOf, hc, State.ownAddr_of_config hc, if_neg ha]

/-- A two-byte field of 0. -/
theorem be16_zero : be16 0 = [0, 0] := by decide

/-- R127: an entry with every field present, as the own one, has the three flags set. -/
theorem rosterBytes_full (st : PeerState) (i : Identity) (iv : Byte) (m : MarkNo) (l : List Advert) :
    rosterBytes st (some i) (some iv) (some m) l
      = [st.code, 7] ++ be32 i.unit ++ be16 i.token ++ [iv] ++ be16 m ++ [byteOf l.length] ++ l.flatMap Advert.bytes := by
  have flags : flagBit 0 true ||| flagBit 1 true ||| flagBit 2 true = 7 := by decide
  simp only [rosterBytes, Option.isSome_some, flags, Option.getD_some, List.append_assoc]

/-- Settles O25: a taken ROSTER answers BAD_ARG or the bytes of the own or of the peer's entry; in those of a peer each
of the three optional fields is present or 0. -/
theorem rosterReports : Obligations.RosterReports := by
  unfold Obligations.RosterReports
  refine ⟨fun s address hs hc => ?_, fun s c address hs hc => ?_⟩
  · exact congrArg Host.Outcome.next (State.command_unconfigured hs hc _)
  have taken : s.takes := ⟨hs, by rw [hc]; rfl⟩
  refine ⟨fun ha => execRoster_badArg taken ha, fun lo hi own => ?_, fun lo hi other e he => ?_⟩
  · have answer := execRoster_ok taken ⟨lo, hi⟩
    rw [own, State.rosterOf_own hc, rosterBytes_full] at answer
    exact answer
  · have answer := execRoster_ok taken ⟨lo, hi⟩
    rw [State.rosterOf_peer hc other, ← he] at answer
    refine answer.trans ?_
    obtain ⟨state, identity, interval, mark, adverts, timerOn⟩ := e
    cases mark with
    | none =>
      simp only [rosterBytes, Option.getD_none, be16_zero]
      cases interval <;> rfl
    | some m => cases interval <;> rfl

end Sys2Proof.Machine
end

section
/-! SUPPORT. The notice queue (R174, R175): what each of the four cases of a posted notice leaves. -/

namespace Sys2Proof.Machine

open Sys2Proof

/-! ### The entry a posted notice adds to -/

/-- A map that rewrites the elements of one kind, on a list with one such element. -/
theorem map_ite_of_unique {α : Type} {p : α → Prop} [DecidablePred p] (f : α → α) {q r : List α} {n : α} (hn : p n)
    (others : ∀ x ∈ q ++ r, ¬p x) : ((q ++ n :: r).map fun x => if p x then f x else x) = q ++ f n :: r := by
  have kept : ∀ l : List α, (∀ x ∈ l, x ∈ q ++ r) → (l.map fun x => if p x then f x else x) = l := fun l sub =>
    (List.map_congr_left fun x hx => if_neg (others x (sub x hx))).trans (List.map_id l)
  rw [List.map_append, List.map_cons, if_pos hn, kept q fun x hx => List.mem_append_left r hx,
    kept r fun x hx => List.mem_append_right q hx]

/-- R174: NOTICE_OVERFLOW is in force exactly when there is a last entry and it is one. -/
theorem overflowInForce_iff (q : List Notice) :
    overflowInForce q = true ↔ ∃ n ∈ q.getLast?, n.kind = .noticeOverflow := by
  unfold overflowInForce
  cases q.getLast? with
  | none => simp
  | some n => simp

/-! ### The four cases -/

section
variable {q : List Notice} {k : NoticeKind} {o : NoticeObject}

/-- R174, merge: the one entry of the kind and object counts the event where it stands. -/
theorem postNotice_merges {r : List Notice} {n : Notice} (hn : n.kind = k ∧ n.object = o)
    (others : ∀ x ∈ q ++ r, ¬(x.kind = k ∧ x.object = o)) (d : Word16) :
    postNotice (q ++ n :: r) k o d = q ++ n.bump d :: r := by
  rcases postNotice_cases (q ++ n :: r) k o d with ⟨-, merged⟩ | ⟨absent, -⟩
  · exact merged.trans (map_ite_of_unique (p := fun x : Notice => x.kind = k ∧ x.object = o) _ hn others)
  · exact absurd hn (absent n (by simp))

/-- R174: with no entry of the kind and object, what happens depends on the last entry and the length alone. -/
theorem postNotice_absent (absent : ∀ x ∈ q, ¬(x.kind = k ∧ x.object = o)) (d : Word16) :
    (overflowInForce q = true
        ∧ postNotice q k o d = q.map fun n =>
          if n.kind = .noticeOverflow ∧ n.object = .none then n.bump (k.code.setWidth 16) else n)
      ∨ (overflowInForce q = false ∧ q.length ≤ 30 ∧ postNotice q k o d = q ++ [⟨k, o, 1, d⟩])
      ∨ (overflowInForce q = false ∧ 30 < q.length
        ∧ postNotice q k o d = q ++ [⟨.noticeOverflow, .none, 1, k.code.setWidth 16⟩]) := by
  rcases postNotice_cases q k o d with ⟨⟨n, hn, same⟩, -⟩ | ⟨-, rest⟩
  · exact absurd same (absent n hn)
  · exact rest

/-- R174, overflow in force: a NOTICE_OVERFLOW that is last counts the discarded event. -/
theorem postNotice_discards {n : Notice} (hn : n.kind = .noticeOverflow ∧ n.object = .none)
    (others : ∀ x ∈ q, x.kind ≠ .noticeOverflow) (absent : ∀ x ∈ q ++ [n], ¬(x.kind = k ∧ x.object = o)) (d : Word16) :
    postNotice (q ++ [n]) k o d = q ++ [n.bump (k.code.setWidth 16)] := by
  have inForce : overflowInForce (q ++ [n]) = true :=
    (overflowInForce_iff _).mpr ⟨n, List.getLast?_concat, hn.1⟩
  rcases postNotice_absent absent d with ⟨-, counted⟩ | ⟨free, -⟩ | ⟨free, -⟩
  · rw [counted]
    refine map_ite_of_unique (p := fun x : Notice => x.kind = .noticeOverflow ∧ x.object = .none) _ hn fun x hx same => ?_
    rw [List.append_nil] at hx
    exact others x hx same.1
  · exact absurd (inForce.symm.trans free) (by decide)
  · exact absurd (inForce.symm.trans free) (by decide)

/-- R174, append: up to 30 entries, none of them a NOTICE_OVERFLOW in force, take a new one. -/
theorem postNotice_appends (free : overflowInForce q = false) (short : q.length ≤ 30)
    (absent : ∀ x ∈ q, ¬(x.kind = k ∧ x.object = o)) (d : Word16) :
    postNotice q k o d = q ++ [⟨k, o, 1, d⟩] := by
  rcases postNotice_absent absent d with ⟨inForce, -⟩ | ⟨-, -, appended⟩ | ⟨-, long, -⟩
  · exact absurd (inForce.symm.trans free) (by decide)
  · exact appended
  · omega

/-- R174, queue at its limit: past 30 entries the event is discarded and a NOTICE_OVERFLOW is appended for it. -/
theorem postNotice_overflows (free : overflowInForce q = false) (long : 30 < q.length)
    (absent : ∀ x ∈ q, ¬(x.kind = k ∧ x.object = o)) (d : Word16) :
    postNotice q k o d = q ++ [⟨.noticeOverflow, .none, 1, k.code.setWidth 16⟩] := by
  rcases postNotice_absent absent d with ⟨inForce, -⟩ | ⟨-, short, -⟩ | ⟨-, -, overflowed⟩
  · exact absurd (inForce.symm.trans free) (by decide)
  · omega
  · exact overflowed

end

/-- Settles O24: a post writes the notice queue alone, and R174's order of cases leaves one case for each queue. -/
theorem noticePosting : Obligations.NoticePosting := by
  unfold Obligations.NoticePosting
  intro s k o d _
  refine ⟨rfl, fun q n r hq kind object others => ?_, fun absent => ⟨fun q c e hq others => ?_, fun last => ?_⟩⟩
  · rw [State.post, hq]
    exact postNotice_merges ⟨kind, object⟩ others d
  · rw [State.post, hq]
    exact postNotice_discards ⟨rfl, rfl⟩ others (hq ▸ absent) d
  · have free : overflowInForce s.notices = false := by
      refine Bool.eq_false_iff.mpr fun inForce => ?_
      obtain ⟨n, hn, overflow⟩ := (overflowInForce_iff _).mp inForce
      exact last n hn overflow
    exact ⟨fun short => postNotice_appends free short absent d,
      fun full => postNotice_overflows free (by omega) absent d⟩

end Sys2Proof.Machine
end

section
/-! SUPPORT. STATUS and NEXT_NOTICE at the host port (R172, R176, R177). -/

namespace Sys2Proof.Machine

open Sys2Proof

/-! ### STATUS (R172) -/

/-- A count over a vector is a count over its indices. -/
theorem countP_toList_eq_countP_finRange {α : Type} {n : Nat} (v : Vector α n) (p : α → Bool) :
    v.toList.countP p = (List.finRange n).countP fun i => p v[i] := by
  have entries : v.toList = (List.finRange n).map fun i => v[i] := by
    rw [← List.ofFn_eq_map, ← Vector.toList_ofFn]
    exact congrArg Vector.toList Vector.ofFn_getElem.symm
  rw [entries, List.countP_map]
  rfl

/-- R172: the open subscriptions, counted by handle. -/
theorem State.openSubs_eq (s : State) : s.openSubs = allHandles.countP fun h => (s.sub h).isSome :=
  countP_toList_eq_countP_finRange s.subs Option.isSome

/-- R172: the publication records, counted by stream number. -/
theorem State.pubRecords_eq (s : State) : s.pubRecords = allStreams.countP fun n => (s.pub n).isSome :=
  countP_toList_eq_countP_finRange s.streams fun r => r.pub.isSome

/-- R172: STATUS is taken in every state, and changes nothing but the transaction. -/
theorem execStatus_taken {s : State} (hs : s.collecting = true) :
    execStatus s = .next (s.answers (0x00 :: s.statusBytes)) :=
  congrArg Host.Outcome.next (if_pos hs)

/-- R170, R172: after a reset STATUS reports the last-mark fields absent, 256 free slots, the start cause, and 0
elsewhere; the bits of the host port and the level of FSYNC are not reported. -/
theorem State.statusBytes_resetBlocks (s : State) (txn : Txn) (spi : Spi) (fsync : Bool) :
    ({ s.resetBlocks with txn := txn, spi := spi, fsyncHigh := fsync } : State).statusBytes
      = [0x04, 0, 0, s.startCause.code, 0, 0, 0, 0, 0, 0, 0, 0, 1, 0, 0, 0, 0, 0] := by
  have slots : be16 (word16Of 256) = [1, 0] := by decide
  simp only [State.statusBytes, State.configured, State.freeCount, State.openSubs, State.pubRecords, State.resetBlocks,
    State.reset, Vector.toList_replicate, List.countP_replicate, List.length_range, slots, be16_zero]
  rfl

/-- Settles O22: the model counts over its vectors and the statement over handles and stream numbers; before CONFIGURE
every field STATUS reports, but the start cause, is the one a reset left. -/
theorem statusReports : Obligations.StatusReports := by
  unfold Obligations.StatusReports
  refine ⟨fun s hs => ?_, fun s hs ok hc => ?_⟩
  · refine (execStatus_taken hs).trans ?_
    rw [State.statusBytes, State.openSubs_eq, State.pubRecords_eq]
    cases s.lastMark <;> rfl
  · have bytes := (congrArg State.statusBytes (ok.1 hc)).trans (s.statusBytes_resetBlocks _ _ _)
    exact (execStatus_taken hs).trans (by rw [bytes])

/-! ### NEXT_NOTICE (R176, R177) -/

/-- R177: ATTN is low exactly while the queue holds an entry. -/
theorem State.attnLow_iff (s : State) : s.attnLow = true ↔ s.notices ≠ [] := by
  rw [State.attnLow, Bool.not_eq_true', List.isEmpty_eq_false_iff]

/-- R176: a taken NEXT_NOTICE removes the oldest entry and answers its record. -/
theorem execNextNotice_removes {s : State} (h : s.takes) {n : Notice} {q : List Notice} (hq : s.notices = n :: q) :
    execNextNotice s = .next (({ s with notices := q } : State).answers (0x00 :: n.bytes)) := by
  have run : s.nextNoticeCommand = ({ s with notices := q }, .ok n.bytes) := by simp only [State.nextNoticeCommand, hq]
  rw [execNextNotice, State.command_taken h, run]
  rfl

/-- R176: a taken NEXT_NOTICE with no entry is answered EMPTY. -/
theorem execNextNotice_empty {s : State} (h : s.takes) (hq : s.notices = []) :
    execNextNotice s = .next (s.answers [0x01]) := by
  have run : s.nextNoticeCommand = (s, .refuse .empty) := by simp only [State.nextNoticeCommand, hq]
  rw [execNextNotice, State.command_taken h, run]
  rfl

/-- R173, R176: the oldest entry is a NOTICE_OVERFLOW only where it is also the last. -/
theorem NoticesOk.tail_eq_nil {n : Notice} {q : List Notice} (ok : NoticesOk (n :: q)) (hn : n.kind = .noticeOverflow) :
    q = [] := by
  obtain ⟨-, -, -, -, early, -⟩ := ok
  cases q with
  | nil => rfl
  | cons m r => exact absurd hn (early n List.mem_cons_self)

/-- Settles O23: a taken NEXT_NOTICE splits the queue into its oldest entry, whose object gives the object byte, and the
rest, which sets ATTN. -/
theorem nextNoticeRemovesOldest : Obligations.NextNoticeRemovesOldest := by
  unfold Obligations.NextNoticeRemovesOldest
  refine ⟨fun s n q taken hq => ?_, fun s n q ok hq overflow => ?_, fun s taken hq => execNextNotice_empty taken hq,
    fun s hs hc => congrArg Host.Outcome.next (State.command_unconfigured hs hc _)⟩
  · refine ⟨_, execNextNotice_removes taken hq, ?_, State.attnLow_iff _⟩
    obtain ⟨kind, object, count, detail⟩ := n
    cases object <;> rfl
  · rw [hq] at ok
    exact NoticesOk.tail_eq_nil ok overflow

end Sys2Proof.Machine
end
